-- ==== Sys2Proof/Word.lean ====
section
/-! DEFINITION. The value types of the machine, each with the width the spec gives it (`00_scope.md` R5). -/

namespace Sys2Proof

/-- An 8-bit unsigned value: a general register, a timer, a byte of memory (R21, R27, R32). -/
abbrev Byte := BitVec 8

/-- A 16-bit unsigned value: `PC`, `I`, a stack entry, an instruction word (R5, R80). -/
abbrev Word := BitVec 16

/-- One display cell, 0 or 1 (R26). -/
abbrev Bit := BitVec 1

/-- One display row: its 64 one-bit cells, bit `x` the cell of column `x` (R5, R26). -/
abbrev Row := BitVec 64

/-- The 4-bit literal `N` = `op[3:0]` (R81). -/
abbrev Nibble := BitVec 4

/-- The 12-bit literal `NNN` = `op[11:0]` (R81, R83). -/
abbrev Addr := BitVec 12

/-- A general register's index, 0 to 15: every value names a register (R21). -/
abbrev Reg := Fin 16

/-- A key's index, 0 to 15 (R258). -/
abbrev Key := Fin 16

/-- A display cell's index `k = x + 64 * y`, 0 to 2047 (R26). -/
abbrev CellIndex := Fin 2048

/-- `V0`, register 0 (R21). -/
abbrev V0 : Reg := 0

/-- `VF`, register 15, the flag output (R22). -/
abbrev VF : Reg := 15

end Sys2Proof
end

