-- ==== Sys2Proof/Syntax.lean ====
section
/-! DEFINITION. The instructions: one constructor per row of `spec/opcode_table.json`, in the table's order
(`30_encoding.md` R85). Fields are pulled out of the word once, by the decoder. -/

namespace Sys2Proof

/-- The 34 instruction kinds (R85). `x`, `y` select registers; `nn`, `nnn`, `n` are unsigned literals (R81, R83). -/
inductive Instr where
  /-- 00E0 `CLS` (R200). -/
  | cls
  /-- 00EE `RET` (R130). -/
  | ret
  /-- 1NNN `JP NNN` (R131). -/
  | jp (nnn : Addr)
  /-- 2NNN `CALL NNN` (R132). -/
  | call (nnn : Addr)
  /-- 3XNN `SE Vx, NN` (R133). -/
  | seImm (x : Reg) (nn : Byte)
  /-- 4XNN `SNE Vx, NN` (R134). -/
  | sneImm (x : Reg) (nn : Byte)
  /-- 5XY0 `SE Vx, Vy` (R135). `ignored` is the low nibble of the word, which decides nothing (R86); it is kept so that
  no bit of a word is lost by decoding. -/
  | seReg (x y : Reg) (ignored : Nibble)
  /-- 6XNN `LD Vx, NN` (R150). -/
  | ldImm (x : Reg) (nn : Byte)
  /-- 7XNN `ADD Vx, NN` (R151). -/
  | addImm (x : Reg) (nn : Byte)
  /-- 8XY0 `LD Vx, Vy` (R152). -/
  | ldReg (x y : Reg)
  /-- 8XY1 `OR Vx, Vy` (R153). -/
  | orReg (x y : Reg)
  /-- 8XY2 `AND Vx, Vy` (R154). -/
  | andReg (x y : Reg)
  /-- 8XY3 `XOR Vx, Vy` (R155). -/
  | xorReg (x y : Reg)
  /-- 8XY4 `ADD Vx, Vy` (R156). -/
  | addReg (x y : Reg)
  /-- 8XY5 `SUB Vx, Vy` (R157). -/
  | subReg (x y : Reg)
  /-- 8XY6 `SHR Vx, Vy` (R158). -/
  | shr (x y : Reg)
  /-- 8XY7 `SUBN Vx, Vy` (R159). -/
  | subnReg (x y : Reg)
  /-- 8XYE `SHL Vx, Vy` (R160). -/
  | shl (x y : Reg)
  /-- 9XY0 `SNE Vx, Vy` (R136). `ignored` as in `seReg` (R86). -/
  | sneReg (x y : Reg) (ignored : Nibble)
  /-- ANNN `LD I, NNN` (R180). -/
  | ldI (nnn : Addr)
  /-- BNNN `JP V0, NNN` (R137). -/
  | jpV0 (nnn : Addr)
  /-- CXNN `RND Vx, NN` (R161). -/
  | rnd (x : Reg) (nn : Byte)
  /-- DXYN `DRW Vx, Vy, N` (R201). -/
  | drw (x y : Reg) (n : Nibble)
  /-- EX9E `SKP Vx` (R220). -/
  | skp (x : Reg)
  /-- EXA1 `SKNP Vx` (R221). -/
  | sknp (x : Reg)
  /-- FX07 `LD Vx, DT` (R222). -/
  | ldVxDt (x : Reg)
  /-- FX0A `LD Vx, K` (R223). -/
  | ldVxK (x : Reg)
  /-- FX15 `LD DT, Vx` (R224). -/
  | ldDtVx (x : Reg)
  /-- FX18 `LD ST, Vx` (R225). -/
  | ldStVx (x : Reg)
  /-- FX1E `ADD I, Vx` (R181). -/
  | addI (x : Reg)
  /-- FX29 `LD F, Vx` (R182). -/
  | ldF (x : Reg)
  /-- FX33 `LD B, Vx` (R183). -/
  | ldB (x : Reg)
  /-- FX55 `LD [I], Vx` (R184). -/
  | storeRegs (x : Reg)
  /-- FX65 `LD Vx, [I]` (R185). -/
  | loadRegs (x : Reg)
  deriving DecidableEq, Repr

end Sys2Proof
end

