-- ==== Sys2Proof/Decode.lean ====
section
/-! DEFINITION. The instruction word: its byte order, its fields, the decoder of `30_encoding.md` R84, the encoder, and
the opcode map of R85. The numbers of the map are the spec's own supply (R85, D15): PRESUMED, log 9; unsafe. -/

namespace Sys2Proof

/-- Why a byte sequence is no instruction: a word of no row (R87), or fewer than two bytes (R80). -/
inductive DecodeError where
  | unknownOpcode (op : Word)
  | truncated
  deriving DecidableEq, Repr

/-- The word two bytes make: the byte at the lower address is the high one (R55). -/
def joinBytes (hi lo : Byte) : Word := hi ++ lo

/-- The byte of a word that is stored at the lower address, `op[15:8]` (R6, R55). -/
def highByte (op : Word) : Byte := op.extractLsb' 8 8

/-- The byte of a word that is stored at the higher address, `op[7:0]` (R6, R55). -/
def lowByte (op : Word) : Byte := op.extractLsb' 0 8

/-- `G` = `op[15:12]`, the group (R81). -/
def opG (op : Word) : Nibble := op.extractLsb' 12 4

/-- `X` = `op[11:8]`, a register index (R81). -/
def opX (op : Word) : Reg := ⟨(op.extractLsb' 8 4).toNat, (op.extractLsb' 8 4).isLt⟩

/-- `Y` = `op[7:4]`, a register index (R81). -/
def opY (op : Word) : Reg := ⟨(op.extractLsb' 4 4).toNat, (op.extractLsb' 4 4).isLt⟩

/-- `N` = `op[3:0]` (R81). -/
def opN (op : Word) : Nibble := op.extractLsb' 0 4

/-- `NN` = `op[7:0]` (R81). -/
def opNN (op : Word) : Byte := op.extractLsb' 0 8

/-- `NNN` = `op[11:0]` (R81). -/
def opNNN (op : Word) : Addr := op.extractLsb' 0 12

/-- Group 0: two whole words and nothing else (R84, R86). -/
def decodeGroup0 (op : Word) : Option Instr :=
  if op = 0x00E0#16 then some .cls else if op = 0x00EE#16 then some .ret else none

/-- Group 8, told apart by the low nibble (R84). -/
def decodeGroup8 (op : Word) : Option Instr :=
  match opN op with
  | 0x0#4 => some (.ldReg (opX op) (opY op))
  | 0x1#4 => some (.orReg (opX op) (opY op))
  | 0x2#4 => some (.andReg (opX op) (opY op))
  | 0x3#4 => some (.xorReg (opX op) (opY op))
  | 0x4#4 => some (.addReg (opX op) (opY op))
  | 0x5#4 => some (.subReg (opX op) (opY op))
  | 0x6#4 => some (.shr (opX op) (opY op))
  | 0x7#4 => some (.subnReg (opX op) (opY op))
  | 0xE#4 => some (.shl (opX op) (opY op))
  | _ => none

/-- Group E, told apart by the low byte (R84). -/
def decodeGroupE (op : Word) : Option Instr :=
  match opNN op with
  | 0x9E#8 => some (.skp (opX op))
  | 0xA1#8 => some (.sknp (opX op))
  | _ => none

/-- Group F, told apart by the low byte (R84). -/
def decodeGroupF (op : Word) : Option Instr :=
  match opNN op with
  | 0x07#8 => some (.ldVxDt (opX op))
  | 0x0A#8 => some (.ldVxK (opX op))
  | 0x15#8 => some (.ldDtVx (opX op))
  | 0x18#8 => some (.ldStVx (opX op))
  | 0x1E#8 => some (.addI (opX op))
  | 0x29#8 => some (.ldF (opX op))
  | 0x33#8 => some (.ldB (opX op))
  | 0x55#8 => some (.storeRegs (opX op))
  | 0x65#8 => some (.loadRegs (opX op))
  | _ => none

/-- `Decode(op)` of R84: a pure function of the word (R81), `none` for the words of R87. -/
def decode (op : Word) : Option Instr :=
  match opG op with
  | 0x0#4 => decodeGroup0 op
  | 0x1#4 => some (.jp (opNNN op))
  | 0x2#4 => some (.call (opNNN op))
  | 0x3#4 => some (.seImm (opX op) (opNN op))
  | 0x4#4 => some (.sneImm (opX op) (opNN op))
  | 0x5#4 => some (.seReg (opX op) (opY op) (opN op))
  | 0x6#4 => some (.ldImm (opX op) (opNN op))
  | 0x7#4 => some (.addImm (opX op) (opNN op))
  | 0x8#4 => decodeGroup8 op
  | 0x9#4 => some (.sneReg (opX op) (opY op) (opN op))
  | 0xA#4 => some (.ldI (opNNN op))
  | 0xB#4 => some (.jpV0 (opNNN op))
  | 0xC#4 => some (.rnd (opX op) (opNN op))
  | 0xD#4 => some (.drw (opX op) (opY op) (opN op))
  | 0xE#4 => decodeGroupE op
  | _ => decodeGroupF op -- 0xF, the one value left

/-- The decoder on bytes, total: the first instruction of a byte sequence and what follows it (R80, R55). -/
def decodeBytes : List Byte → Except DecodeError (Instr × List Byte)
  | hi :: lo :: rest =>
    match decode (joinBytes hi lo) with
    | some i => .ok (i, rest)
    | none => .error (.unknownOpcode (joinBytes hi lo))
  | _ => .error .truncated

/-- A register index as the four bits of its field (R81). -/
def regBits (r : Reg) : Nibble := BitVec.ofNat 4 r.val

/-- The word of an instruction: the `pattern` column of R85 with the fields filled in (R90). -/
def encode : Instr → Word
  | .cls => 0x00E0#16
  | .ret => 0x00EE#16
  | .jp nnn => 0x1#4 ++ nnn
  | .call nnn => 0x2#4 ++ nnn
  | .seImm x nn => 0x3#4 ++ regBits x ++ nn
  | .sneImm x nn => 0x4#4 ++ regBits x ++ nn
  | .seReg x y ignored => 0x5#4 ++ regBits x ++ regBits y ++ ignored
  | .ldImm x nn => 0x6#4 ++ regBits x ++ nn
  | .addImm x nn => 0x7#4 ++ regBits x ++ nn
  | .ldReg x y => 0x8#4 ++ regBits x ++ regBits y ++ 0x0#4
  | .orReg x y => 0x8#4 ++ regBits x ++ regBits y ++ 0x1#4
  | .andReg x y => 0x8#4 ++ regBits x ++ regBits y ++ 0x2#4
  | .xorReg x y => 0x8#4 ++ regBits x ++ regBits y ++ 0x3#4
  | .addReg x y => 0x8#4 ++ regBits x ++ regBits y ++ 0x4#4
  | .subReg x y => 0x8#4 ++ regBits x ++ regBits y ++ 0x5#4
  | .shr x y => 0x8#4 ++ regBits x ++ regBits y ++ 0x6#4
  | .subnReg x y => 0x8#4 ++ regBits x ++ regBits y ++ 0x7#4
  | .shl x y => 0x8#4 ++ regBits x ++ regBits y ++ 0xE#4
  | .sneReg x y ignored => 0x9#4 ++ regBits x ++ regBits y ++ ignored
  | .ldI nnn => 0xA#4 ++ nnn
  | .jpV0 nnn => 0xB#4 ++ nnn
  | .rnd x nn => 0xC#4 ++ regBits x ++ nn
  | .drw x y n => 0xD#4 ++ regBits x ++ regBits y ++ n
  | .skp x => 0xE#4 ++ regBits x ++ 0x9E#8
  | .sknp x => 0xE#4 ++ regBits x ++ 0xA1#8
  | .ldVxDt x => 0xF#4 ++ regBits x ++ 0x07#8
  | .ldVxK x => 0xF#4 ++ regBits x ++ 0x0A#8
  | .ldDtVx x => 0xF#4 ++ regBits x ++ 0x15#8
  | .ldStVx x => 0xF#4 ++ regBits x ++ 0x18#8
  | .addI x => 0xF#4 ++ regBits x ++ 0x1E#8
  | .ldF x => 0xF#4 ++ regBits x ++ 0x29#8
  | .ldB x => 0xF#4 ++ regBits x ++ 0x33#8
  | .storeRegs x => 0xF#4 ++ regBits x ++ 0x55#8
  | .loadRegs x => 0xF#4 ++ regBits x ++ 0x65#8

/-- The bytes of an instruction in memory order (R55). -/
def encodeBytes (i : Instr) : List Byte := [highByte (encode i), lowByte (encode i)]

/-- One row of the opcode map: a word `w` selects the row when `w & mask = pattern` (R85). -/
structure OpRow where
  pattern : Word
  mask : Word
  deriving DecidableEq, Repr

/-- The `match` and `mask` columns of R85, the row of each instruction kind. -/
def opRow : Instr → OpRow
  | .cls => ⟨0x00E0, 0xFFFF⟩
  | .ret => ⟨0x00EE, 0xFFFF⟩
  | .jp _ => ⟨0x1000, 0xF000⟩
  | .call _ => ⟨0x2000, 0xF000⟩
  | .seImm _ _ => ⟨0x3000, 0xF000⟩
  | .sneImm _ _ => ⟨0x4000, 0xF000⟩
  | .seReg _ _ _ => ⟨0x5000, 0xF000⟩
  | .ldImm _ _ => ⟨0x6000, 0xF000⟩
  | .addImm _ _ => ⟨0x7000, 0xF000⟩
  | .ldReg _ _ => ⟨0x8000, 0xF00F⟩
  | .orReg _ _ => ⟨0x8001, 0xF00F⟩
  | .andReg _ _ => ⟨0x8002, 0xF00F⟩
  | .xorReg _ _ => ⟨0x8003, 0xF00F⟩
  | .addReg _ _ => ⟨0x8004, 0xF00F⟩
  | .subReg _ _ => ⟨0x8005, 0xF00F⟩
  | .shr _ _ => ⟨0x8006, 0xF00F⟩
  | .subnReg _ _ => ⟨0x8007, 0xF00F⟩
  | .shl _ _ => ⟨0x800E, 0xF00F⟩
  | .sneReg _ _ _ => ⟨0x9000, 0xF000⟩
  | .ldI _ => ⟨0xA000, 0xF000⟩
  | .jpV0 _ => ⟨0xB000, 0xF000⟩
  | .rnd _ _ => ⟨0xC000, 0xF000⟩
  | .drw _ _ _ => ⟨0xD000, 0xF000⟩
  | .skp _ => ⟨0xE09E, 0xF0FF⟩
  | .sknp _ => ⟨0xE0A1, 0xF0FF⟩
  | .ldVxDt _ => ⟨0xF007, 0xF0FF⟩
  | .ldVxK _ => ⟨0xF00A, 0xF0FF⟩
  | .ldDtVx _ => ⟨0xF015, 0xF0FF⟩
  | .ldStVx _ => ⟨0xF018, 0xF0FF⟩
  | .addI _ => ⟨0xF01E, 0xF0FF⟩
  | .ldF _ => ⟨0xF029, 0xF0FF⟩
  | .ldB _ => ⟨0xF033, 0xF0FF⟩
  | .storeRegs _ => ⟨0xF055, 0xF0FF⟩
  | .loadRegs _ => ⟨0xF065, 0xF0FF⟩

/-- The word of an instruction whose bits, numbered as `spec/opcode_table.json` numbers them, are the low `nbits` bits
of `w`: one word of 16 bits, every bit above `nbits` zero. -/
def tableWord (nbits w : Nat) : Word := BitVec.ofNat 16 (w % 2 ^ nbits)

/-- The instruction the decoder reads from the bytes of that word, laid out as memory holds them. -/
def decodeTableWord (nbits w : Nat) : Option Instr :=
  match decodeBytes [highByte (tableWord nbits w), lowByte (tableWord nbits w)] with
  | .ok (i, _) => some i
  | .error _ => none

end Sys2Proof
end

