-- ==== Sys2Proof/Config.lean ====
section
/-! DEFINITION. What an implementation fixes (`00_scope.md` R5) and the free values of a step (R8, R117).
A constant with a body is a parameter at the value the spec gives; an `opaque` constant is a free value. -/

namespace Sys2Proof

/-- `MEM_SIZE`: 4096 bytes, addresses 0 to 4095 (R5, R50). -/
def Config.memSize : Nat := 4096

/-- `PROG_BASE`: where an image is loaded and where `PC` starts (R5, R37). -/
def Config.progBase : Word := 0x200#16

/-- `MAX_PROG`: the longest image, 4096 - 0x200 bytes (R5, R283). -/
def Config.maxProg : Nat := 3584

/-- `GLYPH_SIZE`: bytes per font glyph (R5, R182). -/
def Config.glyphSize : Nat := 5

/-- The default of the parameter `STACK_DEPTH` (R5, R25, D5). The parameter is OPEN and the model takes it as an
argument, the field `stackDepth` of the state; the default is what `State.reset` alone has there. DESIGN CHOICE, log 3;
unsafe for a claim about the run from that state. -/
def Config.stackDepthDefault : Nat := 16

/-- `FONT`, the 80 bytes of the sixteen glyphs. -/
abbrev Font := Vector Byte 80

/-- The default of the parameter `FONT`: the table of `70_reset_and_hazards.md` R281 (D16). The load operations take
the font as an argument, so no claim rests on this table unless it names it. PRESUMED (the spec's own mark on the
bytes), log 18; unsafe for a claim that names this table. -/
def Config.fontDefault : Font :=
  ⟨#[0xF0, 0x90, 0x90, 0x90, 0xF0] ++ #[0x20, 0x60, 0x20, 0x20, 0x70]
    ++ #[0xF0, 0x10, 0xF0, 0x80, 0xF0] ++ #[0xF0, 0x10, 0xF0, 0x10, 0xF0]
    ++ #[0x90, 0x90, 0xF0, 0x10, 0x10] ++ #[0xF0, 0x80, 0xF0, 0x10, 0xF0]
    ++ #[0xF0, 0x80, 0xF0, 0x90, 0xF0] ++ #[0xF0, 0x10, 0x20, 0x40, 0x40]
    ++ #[0xF0, 0x90, 0xF0, 0x90, 0xF0] ++ #[0xF0, 0x90, 0xF0, 0x10, 0xF0]
    ++ #[0xF0, 0x90, 0xF0, 0x90, 0x90] ++ #[0xE0, 0x90, 0xE0, 0x90, 0xE0]
    ++ #[0xF0, 0x80, 0x80, 0x80, 0xF0] ++ #[0xE0, 0x90, 0x90, 0x90, 0xE0]
    ++ #[0xF0, 0x80, 0xF0, 0x80, 0xF0] ++ #[0xF0, 0x80, 0xF0, 0x80, 0x80], by rfl⟩

/-- The byte `Random()` answers in the step of that number (R8, R161). Free value, log 4; safe. -/
opaque Config.random : Nat → Byte

/-- What `KeyPressed(k)` answers in the step of that number (R8, R220). Free value, log 4; safe. -/
opaque Config.keyPressed : Nat → Key → Bool

/-- What `KeyEvent()` answers in the step of that number: no event yet, or the key (R8, R223). Free value, log 4;
safe. -/
opaque Config.keyEvent : Nat → Option Key

/-- How many timer ticks fall before the step of that number: zero, one or many (R117). Free value, log 5; safe. -/
opaque Config.ticksBefore : Nat → Nat

end Sys2Proof
end

