-- ==== Sys2Proof/Machine/State.lean ====
section
/-! DEFINITION. The machine's state, all of it (`10_state.md` R20), as plain data, and its value after reset (R37). -/

namespace Sys2Proof.Machine

/-- The fault kinds of `60_exceptions.md` R241. -/
inductive FaultKind where
  /-- Code 1: the fetched word matches no row of the opcode map (R243). -/
  | decodeError
  /-- Code 2: a decoded kind with no execute rule; never raised (R114). -/
  | executionError
  /-- Code 3: 00EE with an empty stack (R244). -/
  | stackUnderflow
  /-- Code 4: the host's `Load` of too long an image; returned to the host, never latched (R245, R283). -/
  | capacityError
  /-- Code 5: 2NNN with a full stack (R132). -/
  | stackOverflow
  /-- Code 6: a fetch at an odd `PC` or above 0x0FFE (R112). -/
  | fetchFault
  /-- Code 7: DXYN, FX33, FX55 or FX65 reaching above address 4095 (R60). -/
  | memoryBoundsFault
  /-- Code 8: EX9E or EXA1 with `V[X] > 15` (R220). -/
  | keyIndexFault
  deriving DecidableEq, Repr

/-- What `FAULT` holds: the triple `(kind, opcode, addr)` of R31; `op` is absent for a fetch fault only (R240). -/
structure FaultRecord where
  kind : FaultKind
  op : Option Word
  addr : Word
  deriving DecidableEq, Repr

/-- Memory: the bytes that differ from `Memory.blank`, as (address, byte) cells in rising order of address. -/
abbrev Memory := List Host.Cell

/-- The complete state of the core (R20), the parameter `stackDepth` (R5), and one field of the model's own, `stepNo`. -/
structure State where
  /-- `Mem`, 4096 bytes (R32, R50). -/
  mem : Memory
  /-- `V[0..15]` (R21); `VF` is the flag output (R22). -/
  v : Vector Byte 16
  /-- `I`, the index register (R23). -/
  i : Word
  /-- `PC` (R24): between steps the next fetch address, during execute the fetch address plus 2. -/
  pc : Word
  /-- `Stack`, newest entry first (R25); `SP` is its length. -/
  stack : List Word
  /-- `Disp[0..2047]` (R26) as the 32 rows of the 64 by 32 grid: the cell of index `k = x + 64 * y` is bit `x` of
  row `y`. -/
  disp : Vector Row 32
  /-- `DT`, the delay timer (R27). -/
  dt : Byte
  /-- `ST`, the sound timer (R28). -/
  st : Byte
  /-- `QUIRK_SHIFT` (R29). -/
  quirkShift : Bool
  /-- `QUIRK_JUMP` (R29). -/
  quirkJump : Bool
  /-- `QUIRK_INDEX` (R29). -/
  quirkIndex : Bool
  /-- `STACK_DEPTH`, the OPEN parameter of R5 (R25, D5): `some d` for a stack of `d` entries, `none` for an unbounded one,
  which R25 allows. The machine takes it as an argument here: nothing ever changes it. Log 3. -/
  stackDepth : Option Nat
  /-- `WAIT`: the register field of a pending FX0A (R30). -/
  wait : Option Reg
  /-- `FAULT`: the error that halted the CPU (R31). -/
  fault : Option FaultRecord
  /-- THE MODEL'S OWN, not the spec's: the number of the step, which indexes the draws the environment supplies for it
  (R8, R111). DESIGN CHOICE, log 4; safe. -/
  stepNo : Nat
  deriving DecidableEq, Repr

/-- Why the machine has no next state. -/
inductive Fault where
  /-- Raised by `step` alone, when `FAULT` is set: a halted CPU has no step (R116). Holds the latched record. The
  instructions raise none of these: a `raise` of the spec is a next state with `FAULT` written. Safe (log 7). -/
  | halted (record : FaultRecord)
  deriving DecidableEq, Repr

/-- Why an instruction has no meaning. -/
inductive Refusal where
  /-- Kept for an instruction without a meaning; every instruction has one, so nothing raises it. Safe. -/
  | notModelled (mnemonic : String)
  deriving DecidableEq, Repr

/-- What executing an instruction answers. -/
abbrev Result := Host.Outcome State Fault Refusal

/-- The machine right after reset, which is also its state at construction (R37, R280). The quirk flags have no value
in the spec: false is a DESIGN CHOICE, log 2; unsafe. `STACK_DEPTH` is OPEN, here at the spec's default: DESIGN CHOICE,
log 3; unsafe. -/
def State.reset : State where
  mem := []
  v := Vector.replicate 16 0
  i := 0
  pc := Config.progBase
  stack := []
  disp := Vector.replicate 32 0
  dt := 0
  st := 0
  quirkShift := false
  quirkJump := false
  quirkIndex := false
  stackDepth := some Config.stackDepthDefault
  wait := none
  fault := none
  stepNo := 0

end Sys2Proof.Machine
end

