-- ==== Sys2Proof/Machine/Memory.lean ====
section
/-! DEFINITION. Memory as a list of cells in one canonical form, one byte at a time (`20_memory.md` R50, R56, R58).
Range checks stand with the accesses (`Machine/Operands.lean`, `Machine/Fetch.lean`): R52 checks before it reads or
writes. -/

namespace Sys2Proof.Machine

/-- What a byte that is not listed reads as: reset zeroes all of memory (R37, R280, D26). -/
def Memory.blank : Byte := 0

/-- The byte at an address (R52). -/
def Memory.read : Memory → Nat → Byte
  | [], _ => Memory.blank
  | (k, b) :: rest, a => if k = a then b else Memory.read rest a

/-- Memory without any cell for an address. -/
def Memory.erase (m : Memory) (a : Nat) : Memory := m.filter (fun c => c.1 != a)

/-- Memory with one more cell, before the first cell of a higher address. -/
def Memory.insert (a : Nat) (b : Byte) : Memory → Memory
  | [] => [(a, b)]
  | (k, c) :: rest => if a < k then (a, b) :: (k, c) :: rest else (k, c) :: Memory.insert a b rest

/-- Memory with a byte written; writing the blank byte unlists the address (R52). -/
def Memory.write (m : Memory) (a : Nat) (b : Byte) : Memory :=
  if b = Memory.blank then Memory.erase m a else Memory.insert a b (Memory.erase m a)

/-- A run of bytes written at rising addresses from `a` on (R281, R282). -/
def Memory.writeAll (m : Memory) (a : Nat) : List Byte → Memory
  | [] => m
  | b :: bs => Memory.writeAll (Memory.write m a b) (a + 1) bs

/-- The canonical form: addresses strictly rising and inside the memory, no listed byte blank. -/
abbrev Memory.wf (m : Memory) : Prop :=
  m.Pairwise (fun c d => c.1 < d.1) ∧ ∀ c ∈ m, c.1 < Config.memSize ∧ c.2 ≠ Memory.blank

end Sys2Proof.Machine
end

