-- ==== Sys2Proof/Machine/Ops.lean ====
section
/-! DEFINITION. The named operations over the state: one accessor and one update per piece of state, the stack
controller (R25), the draws (R8), and taking a fault (R240). Every read and write of the state goes through here. -/

namespace Sys2Proof.Machine

/-- `V[r]` (R21). -/
def State.getV (s : State) (r : Reg) : Byte := s.v[r]

/-- `V[r] <- b` (R21). -/
def State.setV (s : State) (r : Reg) (b : Byte) : State := { s with v := s.v.set r b }

/-- `I <- w` (R23). -/
def State.setI (s : State) (w : Word) : State := { s with i := w }

/-- `PC <- w` (R24). -/
def State.setPc (s : State) (w : Word) : State := { s with pc := w }

/-- The whole stack replaced (R25). -/
def State.setStack (s : State) (st : List Word) : State := { s with stack := st }

/-- The whole display replaced (R26). -/
def State.setDisp (s : State) (d : Vector Row 32) : State := { s with disp := d }

/-- The whole memory replaced (R32). -/
def State.setMem (s : State) (m : Memory) : State := { s with mem := m }

/-- `DT <- b` (R27). -/
def State.setDt (s : State) (b : Byte) : State := { s with dt := b }

/-- `ST <- b` (R28). -/
def State.setSt (s : State) (b : Byte) : State := { s with st := b }

/-- `QUIRK_SHIFT <- q` (R285). -/
def State.setQuirkShift (s : State) (q : Bool) : State := { s with quirkShift := q }

/-- `QUIRK_JUMP <- q` (R285). -/
def State.setQuirkJump (s : State) (q : Bool) : State := { s with quirkJump := q }

/-- `QUIRK_INDEX <- q` (R285). -/
def State.setQuirkIndex (s : State) (q : Bool) : State := { s with quirkIndex := q }

/-- The same machine with another `STACK_DEPTH` (R5); no transition uses it but to carry the parameter along. -/
def State.setStackDepth (s : State) (d : Option Nat) : State := { s with stackDepth := d }

/-- `WAIT <- w` (R30). -/
def State.setWait (s : State) (w : Option Reg) : State := { s with wait := w }

/-- `FAULT <- f` (R31). -/
def State.setFault (s : State) (f : Option FaultRecord) : State := { s with fault := f }

/-- The model's step number replaced (log 4). -/
def State.setStepNo (s : State) (n : Nat) : State := { s with stepNo := n }

/-- The byte of memory at an address; the caller has checked the range (R52, R60). -/
def State.readByte (s : State) (a : Nat) : Byte := Memory.read s.mem a

/-- A byte written to memory; the caller has checked the range (R52, R60). -/
def State.writeByte (s : State) (a : Nat) (b : Byte) : State := s.setMem (Memory.write s.mem a b)

/-- The row `y` of the cell of index `k = x + 64 * y` (R26). -/
def cellRow (k : CellIndex) : Fin 32 := Fin.ofNat 32 (k.val / 64)

/-- The column `x` of the cell of index `k = x + 64 * y` (R26). -/
def cellColumn (k : CellIndex) : Nat := k.val % 64

/-- `Disp[k]` (R26). -/
def State.cell (s : State) (k : CellIndex) : Bit := BitVec.ofBool (s.disp[cellRow k].getLsbD (cellColumn k))

/-- `Disp[k] <- Disp[k] ^ 1` (R201). -/
def State.flipCell (s : State) (k : CellIndex) : State :=
  s.setDisp (s.disp.set (cellRow k) (s.disp[cellRow k] ^^^ BitVec.twoPow 64 (cellColumn k)))

/-- `SP`, the number of entries on the stack (R20, R25). -/
def State.sp (s : State) : Nat := s.stack.length

/-- `SP = STACK_DEPTH`: the stack is full, which an unbounded one never is (R25). -/
def State.full (s : State) : Bool := s.stackDepth == some s.sp

/-- `Push(v)`: no answer when the stack is full (R25). -/
def State.push (s : State) (w : Word) : Option State :=
  if s.full then none else some (s.setStack (w :: s.stack))

/-- `Pop()`: the newest entry and the state without it; no answer when the stack is empty (R25). -/
def State.pop (s : State) : Option (Word × State) :=
  match s.stack with
  | [] => none
  | w :: rest => some (w, s.setStack rest)

/-- The draw `Random()` of this step (R8). -/
def State.drawRandom (s : State) : Byte := Config.random s.stepNo

/-- The draw `KeyPressed(k)` of this step (R8). -/
def State.drawKeyPressed (s : State) (k : Key) : Bool := Config.keyPressed s.stepNo k

/-- The draw `KeyEvent()` of this step (R8). -/
def State.drawKeyEvent (s : State) : Option Key := Config.keyEvent s.stepNo

/-- Taking a fault: `FAULT <- Some (kind, op, a)` and nothing else; the CPU is halted from then on (R240, R246, R248).
There is no handler and no return: the ways out are the host's `Reset` and `Load` (R249, `Machine/HostOps.lean`). -/
def State.takeFault (s : State) (kind : FaultKind) (op : Option Word) (a : Word) : State :=
  s.setFault (some ⟨kind, op, a⟩)

/-- `raise F(op, a)` inside an instruction: during execute `PC` is `a + 2`, and the word of an instruction is its
encoding, for no bit of a word is lost by decoding (R240, log 8). -/
def raise (kind : FaultKind) (i : Instr) (s : State) : Result :=
  .next (s.takeFault kind (some (encode i)) (s.pc - 2))

end Sys2Proof.Machine
end

