-- ==== Sys2Proof/Machine/Flags.lean ====
section
/-! DEFINITION. Every flag computation: the six instructions that write `VF` as a flag (`10_state.md` R22). -/

namespace Sys2Proof.Machine

/-- A flag's value, 0 or 1 (R22). -/
def flagByte (b : Bool) : Byte := if b then 1 else 0

/-- Carry of 8XY4: the exact sum exceeds 255 (R156, R162). -/
def carry (p q : Byte) : Byte := flagByte (decide (p.toNat + q.toNat > 255))

/-- No-borrow flag of 8XY5 and 8XY7: the minuend is strictly greater (R157, R159, R162; else 0, D9, log 12). -/
def noBorrow (p q : Byte) : Byte := flagByte (decide (p.toNat > q.toNat))

/-- The bit SHR shifts out, bit 0 (R158). -/
def lowBit (p : Byte) : Byte := flagByte (p.getLsbD 0)

/-- The bit SHL shifts out, bit 7 (R160). -/
def highBit (p : Byte) : Byte := flagByte (p.getLsbD 7)

/-- `if Disp[k] = 1 then V[15] <- 1` (R201). -/
def State.noteCollision (s : State) (k : CellIndex) : State := if s.cell k = 1 then s.setV VF 1 else s

end Sys2Proof.Machine
end

