-- ==== Sys2Proof/Machine/Operands.lean ====
section
/-! DEFINITION. The operand forms: zero-extended literals (`30_encoding.md` R83), effective addresses and their range
check (`43_index_memory.md` R186, `20_memory.md` R60), register ranges (R184, R185), the registers the quirk flags
choose (R29), sprite geometry (`44_display.md` R202, R203), key indices (R220), decimal digits (R183). -/

namespace Sys2Proof.Machine

/-- `zext_16` of an address literal (R83). -/
def zextAddr (nnn : Addr) : Word := nnn.zeroExtend 16

/-- `zext_16` of a register's value (R137, R181). -/
def zextByte (b : Byte) : Word := b.zeroExtend 16

/-- The effective address `I + offset`, an exact integer (R186). -/
def State.ea (s : State) (offset : Nat) : Nat := s.i.toNat + offset

/-- Whether the highest address of an access, `I + offset`, is above 4095 (R60). -/
def State.pastMemory (s : State) (offset : Nat) : Bool := decide (s.ea offset > 4095)

/-- Registers 0 to X in rising order (R184, R185). -/
def regsTo (x : Reg) : List Reg := (List.range (x.val + 1)).map (Fin.ofNat 16)

/-- `op[11:8]` of a BNNN word, the high nibble of its `NNN`, as a register index (R83, R137). -/
def highNibble (nnn : Addr) : Reg := ⟨(nnn.extractLsb' 8 4).toNat, (nnn.extractLsb' 8 4).isLt⟩

/-- The register BNNN adds: `V[X]` with `QUIRK_JUMP` on, `V[0]` with it off (R29, R137). -/
def State.jumpReg (s : State) (nnn : Addr) : Reg := if s.quirkJump then highNibble nnn else V0

/-- The first line of a shift: with `QUIRK_SHIFT` on, `V[X] <- V[Y]`; with it off, nothing (R29, R158, R160). -/
def State.shiftSource (s : State) (x y : Reg) : State := if s.quirkShift then s.setV x (s.getV y) else s

/-- The last line of FX55 and FX65: with `QUIRK_INDEX` on, `I <- I + X + 1`; with it off, nothing (R29, R187). -/
def State.indexAfter (s : State) (x : Reg) : State :=
  if s.quirkIndex then s.setI (s.i + BitVec.ofNat 16 (x.val + 1)) else s

/-- A skip adds exactly 2 to `PC` when its condition holds (R138). -/
def State.skipIf (s : State) (condition : Bool) : State := if condition then s.setPc (s.pc + 2) else s

/-- A register's value as a key index; none above 15 (R220, R258). -/
def keyOf (b : Byte) : Option Key := if h : b.toNat < 16 then some ⟨b.toNat, h⟩ else none

/-- The bit of a sprite byte at column offset `c`: bit 7 is the leftmost (R201, R202; the spec's D13, log 17). -/
def spriteBit (b : Byte) (c : Nat) : Bool := b.getLsbD (7 - c)

/-- The cell of sprite row `r`, column `c`, the sprite at `(vx, vy)`: linear wrap modulo 2048 (R203). -/
def spriteCell (vx vy : Byte) (r c : Nat) : CellIndex := Fin.ofNat 2048 (vx.toNat + c + 64 * (vy.toNat + r))

/-- The hundreds digit (R183). -/
def hundreds (b : Byte) : Byte := BitVec.ofNat 8 (b.toNat / 100)

/-- The tens digit (R183). -/
def tens (b : Byte) : Byte := BitVec.ofNat 8 (b.toNat / 10 % 10)

/-- The units digit (R183). -/
def units (b : Byte) : Byte := BitVec.ofNat 8 (b.toNat % 10)

end Sys2Proof.Machine
end

