-- ==== Sys2Proof/Machine/Alu.lean ====
section
/-! DEFINITION. The register load, arithmetic, logic, shift and random instructions (`42_alu.md`).
The assignments of a rule run in the order written, each seeing the registers as the one before left them (R163; the
spec's D8, log 10): this decides the result where X or Y is 15. -/

namespace Sys2Proof.Machine

/-- 6XNN `LD Vx, NN` (R150). -/
def execLdImm (x : Reg) (nn : Byte) (s : State) : Result := .next (s.setV x nn)

/-- 7XNN `ADD Vx, NN` (R151). -/
def execAddImm (x : Reg) (nn : Byte) (s : State) : Result := .next (s.setV x (s.getV x + nn))

/-- 8XY0 `LD Vx, Vy` (R152). -/
def execLdReg (x y : Reg) (s : State) : Result := .next (s.setV x (s.getV y))

/-- 8XY1 `OR Vx, Vy` (R153). -/
def execOrReg (x y : Reg) (s : State) : Result := .next (s.setV x (s.getV x ||| s.getV y))

/-- 8XY2 `AND Vx, Vy` (R154). -/
def execAndReg (x y : Reg) (s : State) : Result := .next (s.setV x (s.getV x &&& s.getV y))

/-- 8XY3 `XOR Vx, Vy` (R155). -/
def execXorReg (x y : Reg) (s : State) : Result := .next (s.setV x (s.getV x ^^^ s.getV y))

/-- 8XY4 `ADD Vx, Vy` (R156): the sum first, then the flag, then the register. -/
def execAddReg (x y : Reg) (s : State) : Result :=
  .next ((s.setV VF (carry (s.getV x) (s.getV y))).setV x (s.getV x + s.getV y))

/-- The second line of 8XY5, on the registers as they now stand (R157). -/
def State.subInto (s : State) (x y : Reg) : State := s.setV x (s.getV x - s.getV y)

/-- 8XY5 `SUB Vx, Vy` (R157). -/
def execSubReg (x y : Reg) (s : State) : Result :=
  .next ((s.setV VF (noBorrow (s.getV x) (s.getV y))).subInto x y)

/-- The flag and the shift of 8XY6, on the registers as they now stand (R158). -/
def State.shiftRight (s : State) (x : Reg) : State :=
  let t := s.setV VF (lowBit (s.getV x))
  t.setV x (t.getV x >>> 1)

/-- 8XY6 `SHR Vx, Vy` (R158). -/
def execShr (x y : Reg) (s : State) : Result := .next ((s.shiftSource x y).shiftRight x)

/-- The second line of 8XY7, on the registers as they now stand (R159). -/
def State.subFrom (s : State) (x y : Reg) : State := s.setV x (s.getV y - s.getV x)

/-- 8XY7 `SUBN Vx, Vy` (R159). -/
def execSubnReg (x y : Reg) (s : State) : Result :=
  .next ((s.setV VF (noBorrow (s.getV y) (s.getV x))).subFrom x y)

/-- The flag and the shift of 8XYE, on the registers as they now stand (R160). -/
def State.shiftLeft (s : State) (x : Reg) : State :=
  let t := s.setV VF (highBit (s.getV x))
  t.setV x (t.getV x <<< 1)

/-- 8XYE `SHL Vx, Vy` (R160). -/
def execShl (x y : Reg) (s : State) : Result := .next ((s.shiftSource x y).shiftLeft x)

/-- CXNN `RND Vx, NN` (R161): the draw is a free value (log 4). -/
def execRnd (x : Reg) (nn : Byte) (s : State) : Result := .next (s.setV x (s.drawRandom &&& nn))

end Sys2Proof.Machine
end

