-- ==== Sys2Proof/Machine/Display.lean ====
section
/-! DEFINITION. The display instructions (`44_display.md`). -/

namespace Sys2Proof.Machine

/-- 00E0 `CLS` (R200): every cell 0. -/
def execCls (s : State) : Result := .next (s.setDisp (Vector.replicate 32 0))

/-- One sprite bit: a set bit notes a collision and flips its cell, a clear bit does nothing (R201). -/
def State.drawBit (vx vy : Byte) (r : Nat) (b : Byte) (s : State) (c : Nat) : State :=
  if spriteBit b c then (s.noteCollision (spriteCell vx vy r c)).flipCell (spriteCell vx vy r c) else s

/-- One sprite row: the byte at `I + r`, columns 0 to 7 (R201). -/
def State.drawRow (vx vy : Byte) (s : State) (r : Nat) : State :=
  (List.range 8).foldl (State.drawBit vx vy r (s.readByte (s.ea r))) s

/-- A sprite of `n` rows at `(vx, vy)`: `V[15] <- 0`, then rows 0 to `n - 1` (R201). -/
def State.drawSprite (s : State) (vx vy : Byte) (n : Nat) : State :=
  (List.range n).foldl (State.drawRow vx vy) (s.setV VF 0)

/-- DXYN `DRW Vx, Vy, N` (R201). The range is checked first; the position is read before `VF` is cleared (the spec's
D13, log 17). -/
def execDrw (x y : Reg) (n : Nibble) (s : State) : Result :=
  if n.toNat > 0 && s.pastMemory (n.toNat - 1) then raise .memoryBoundsFault (.drw x y n) s
  else .next (s.drawSprite (s.getV x) (s.getV y) n.toNat)

end Sys2Proof.Machine
end

