-- ==== Sys2Proof/Machine/Flow.lean ====
section
/-! DEFINITION. The control transfer instructions (`41_flow.md`). During execute `PC` is the fetch address plus 2. -/

namespace Sys2Proof.Machine

/-- 00EE `RET` (R130). -/
def execRet (s : State) : Result :=
  match s.pop with
  | none => raise .stackUnderflow .ret s
  | some (w, t) => .next (t.setPc w)

/-- 1NNN `JP NNN` (R131). -/
def execJp (nnn : Addr) (s : State) : Result := .next (s.setPc (zextAddr nnn))

/-- 2NNN `CALL NNN` (R132). -/
def execCall (nnn : Addr) (s : State) : Result :=
  match s.push s.pc with
  | none => raise .stackOverflow (.call nnn) s
  | some t => .next (t.setPc (zextAddr nnn))

/-- 3XNN `SE Vx, NN` (R133). -/
def execSeImm (x : Reg) (nn : Byte) (s : State) : Result := .next (s.skipIf (s.getV x == nn))

/-- 4XNN `SNE Vx, NN` (R134). -/
def execSneImm (x : Reg) (nn : Byte) (s : State) : Result := .next (s.skipIf (s.getV x != nn))

/-- 5XY0 `SE Vx, Vy` (R135); the low nibble of the word decides nothing (R86). -/
def execSeReg (x y : Reg) (s : State) : Result := .next (s.skipIf (s.getV x == s.getV y))

/-- 9XY0 `SNE Vx, Vy` (R136); the low nibble of the word decides nothing (R86). -/
def execSneReg (x y : Reg) (s : State) : Result := .next (s.skipIf (s.getV x != s.getV y))

/-- BNNN `JP V0, NNN` (R137). -/
def execJpV0 (nnn : Addr) (s : State) : Result :=
  .next (s.setPc (zextByte (s.getV (s.jumpReg nnn)) + zextAddr nnn))

end Sys2Proof.Machine
end

