-- ==== Sys2Proof/Machine/IndexMemory.lean ====
section
/-! DEFINITION. The index register and memory instructions (`43_index_memory.md`). The whole range of an access is
checked before anything is written, so a fault changes nothing else (`20_memory.md` R52, R60). -/

namespace Sys2Proof.Machine

/-- ANNN `LD I, NNN` (R180). -/
def execLdI (nnn : Addr) (s : State) : Result := .next (s.setI (zextAddr nnn))

/-- FX1E `ADD I, Vx` (R181): 16-bit wrap-around, no flag. -/
def execAddI (x : Reg) (s : State) : Result := .next (s.setI (s.i + zextByte (s.getV x)))

/-- FX29 `LD F, Vx` (R182): the whole byte times 5. -/
def execLdF (x : Reg) (s : State) : Result :=
  .next (s.setI (BitVec.ofNat 16 ((s.getV x).toNat * Config.glyphSize)))

/-- The three stores of FX33 (R183). -/
def State.storeDigits (s : State) (b : Byte) : State :=
  ((s.writeByte (s.ea 0) (hundreds b)).writeByte (s.ea 1) (tens b)).writeByte (s.ea 2) (units b)

/-- FX33 `LD B, Vx` (R183). -/
def execLdB (x : Reg) (s : State) : Result :=
  if s.pastMemory 2 then raise .memoryBoundsFault (.ldB x) s else .next (s.storeDigits (s.getV x))

/-- One store of FX55: `MemWrite(I + i, 1, V[i])` (R184). -/
def State.storeReg (s : State) (r : Reg) : State := s.writeByte (s.ea r.val) (s.getV r)

/-- FX55 `LD [I], Vx` (R184). -/
def execStoreRegs (x : Reg) (s : State) : Result :=
  if s.pastMemory x.val then raise .memoryBoundsFault (.storeRegs x) s
  else .next (((regsTo x).foldl State.storeReg s).indexAfter x)

/-- One load of FX65: `V[i] <- MemRead(I + i, 1)` (R185). -/
def State.loadReg (s : State) (r : Reg) : State := s.setV r (s.readByte (s.ea r.val))

/-- FX65 `LD Vx, [I]` (R185). -/
def execLoadRegs (x : Reg) (s : State) : Result :=
  if s.pastMemory x.val then raise .memoryBoundsFault (.loadRegs x) s
  else .next (((regsTo x).foldl State.loadReg s).indexAfter x)

end Sys2Proof.Machine
end

