-- ==== Sys2Proof/Machine/KeypadTimers.lean ====
section
/-! DEFINITION. The keypad and timer instructions (`45_keypad_timers.md`). The keys are seen only through the draws of
the step (R8, log 4). -/

namespace Sys2Proof.Machine

/-- EX9E `SKP Vx` (R220). -/
def execSkp (x : Reg) (s : State) : Result :=
  match keyOf (s.getV x) with
  | none => raise .keyIndexFault (.skp x) s
  | some k => .next (s.skipIf (s.drawKeyPressed k))

/-- EXA1 `SKNP Vx` (R221). -/
def execSknp (x : Reg) (s : State) : Result :=
  match keyOf (s.getV x) with
  | none => raise .keyIndexFault (.sknp x) s
  | some k => .next (s.skipIf (!s.drawKeyPressed k))

/-- FX07 `LD Vx, DT` (R222). -/
def execLdVxDt (x : Reg) (s : State) : Result := .next (s.setV x s.dt)

/-- What FX0A does with the answer of `KeyEvent()` (R223): no event yet, and the wait is recorded and `PC` goes back to
the instruction; an event, and the register takes the key and the wait is over. -/
def State.awaitKey (s : State) (x : Reg) : Option Key → State
  | none => (s.setWait (some x)).setPc (s.pc - 2)
  | some k => (s.setV x (BitVec.ofNat 8 k.val)).setWait none

/-- FX0A `LD Vx, K` (R223). -/
def execLdVxK (x : Reg) (s : State) : Result := .next (s.awaitKey x s.drawKeyEvent)

/-- FX15 `LD DT, Vx` (R224). -/
def execLdDtVx (x : Reg) (s : State) : Result := .next (s.setDt (s.getV x))

/-- FX18 `LD ST, Vx` (R225). -/
def execLdStVx (x : Reg) (s : State) : Result := .next (s.setSt (s.getV x))

end Sys2Proof.Machine
end

