-- ==== Sys2Proof/Machine/Fetch.lean ====
section
/-! DEFINITION. Fetch and decode, the part of a step before the instruction is executed (`40_step_cycle.md` R111,
R112), and placing a word where the next fetch reads it. -/

namespace Sys2Proof.Machine

/-- The sub-cause of a fetch fault (R112, R241). -/
inductive FetchCause where
  | outOfRange
  | misaligned
  deriving DecidableEq, Repr

/-- Why a fetch at an address faults, if it does; the range is checked before the parity (R112, R247). -/
def fetchCause (a : Word) : Option FetchCause :=
  if a.toNat > 0x0FFE then some .outOfRange else if a.getLsbD 0 then some .misaligned else none

/-- The big-endian word at `PC` (R55, R112). -/
def State.fetchWord (s : State) : Word := joinBytes (s.readByte s.pc.toNat) (s.readByte (s.pc.toNat + 1))

/-- `PC <- PC + 2` of the fetch (R112). -/
def State.advance (s : State) : State := s.setPc (s.pc + 2)

/-- What fetch and decode come to: a state with a fault taken, or an instruction and the state it executes in. -/
inductive Fetched where
  | faulted (t : State)
  | ready (i : Instr) (t : State)
  deriving DecidableEq, Repr

/-- Fetch and decode (R111, R112). A fetch fault changes nothing but `FAULT` and records no word; a decode error comes
after the advance of `PC` (R243, R246). -/
def State.fetchDecode (s : State) : Fetched :=
  match fetchCause s.pc with
  | some _ => .faulted (s.takeFault .fetchFault none s.pc)
  | none =>
    match decode s.fetchWord with
    | none => .faulted (s.advance.takeFault .decodeError (some s.fetchWord) s.pc)
    | some i => .ready i s.advance

/-- A state able to fetch: no fault latched, and `PC` where it may be fetched from (the entry point where it was
not). -/
def State.readyToFetch (s : State) : State :=
  (if fetchCause s.pc = none then s else s.setPc Config.progBase).setFault none

/-- A word stored at `PC`, its high byte first (R55). -/
def State.placeWord (s : State) (op : Word) : State :=
  (s.writeByte s.pc.toNat (highByte op)).writeByte (s.pc.toNat + 1) (lowByte op)

end Sys2Proof.Machine
end

