-- ==== Sys2Proof/Machine/Timers.lean ====
section
/-! DEFINITION. The timer agent (`60_exceptions.md` R256) and the interleaving of its ticks with the CPU's steps
(`40_step_cycle.md` R117). -/

namespace Sys2Proof.Machine

/-- One timer counted down by one, not below zero (R256). -/
def countOne (b : Byte) : Byte := if b = 0 then 0 else b - 1

/-- One tick: both timers, in any state, halted and waiting included (R256, D20). -/
def State.tick (s : State) : State := (s.setDt (countOne s.dt)).setSt (countOne s.st)

/-- `n` ticks. -/
def State.ticks : Nat → State → State
  | 0, s => s
  | n + 1, s => State.ticks n s.tick

/-- One timer after `n` ticks. The test for zero is there so that a timer at rest evaluates without knowing `n`. -/
def countDown (n : Nat) (b : Byte) : Byte := if b = 0 then 0 else BitVec.ofNat 8 (b.toNat - n)

/-- What happens between the previous step and this one: a free number of ticks, and the draws of a fresh step
(R117, R111; log 4, log 5). -/
def State.elapse (s : State) : State :=
  ((s.setDt (countDown (Config.ticksBefore s.stepNo) s.dt)).setSt
    (countDown (Config.ticksBefore s.stepNo) s.st)).setStepNo (s.stepNo + 1)

end Sys2Proof.Machine
end

