-- ==== Sys2Proof/Machine/HostOps.lean ====
section
/-! DEFINITION. The host's operations on the core, each one atomic (`60_exceptions.md` R260): reset, font load, program
load (`70_reset_and_hazards.md` R280 to R283), setting a quirk flag (R285), a tick (R256), and the read ports (R257,
R259). The CPU's step performs none of them but the ticks (log 6). -/

namespace Sys2Proof.Machine

/-- The parameters that live in the state, the quirk flags and `STACK_DEPTH` (R5), as they are in another state. -/
def State.withParametersOf (t s : State) : State :=
  (((t.setQuirkShift s.quirkShift).setQuirkJump s.quirkJump).setQuirkIndex s.quirkIndex).setStackDepth s.stackDepth

/-- `Reset` (R280): the reset state, the parameters untouched; so is the model's own step number. -/
def hostReset (s : State) : State := (State.reset.withParametersOf s).setStepNo s.stepNo

/-- `LoadFontset` (R281): the font, a parameter of the model (R5), at addresses 0 to 79. -/
def hostLoadFontset (font : Font) (s : State) : State := s.setMem (Memory.writeAll s.mem 0 font.toList)

/-- `Load(image)` (R282): too long an image is rejected whole and changes nothing (R283, D18). -/
def hostLoad (font : Font) (image : List Byte) (s : State) : Except FaultKind State :=
  if image.length > Config.maxProg then .error .capacityError
  else
    let t := hostLoadFontset font (hostReset s)
    .ok (t.setMem (Memory.writeAll t.mem Config.progBase.toNat image))

/-- What the host can do to the core, apart from causing a CPU step (R260). -/
inductive HostAction where
  | tick
  | reset
  | loadFontset (font : Font)
  | load (font : Font) (image : List Byte)
  | setQuirkShift (q : Bool)
  | setQuirkJump (q : Bool)
  | setQuirkIndex (q : Bool)
  deriving DecidableEq, Repr

/-- The state after a host action; a rejected load leaves the state as it was (R283). -/
def State.perform (s : State) : HostAction → State
  | .tick => s.tick
  | .reset => hostReset s
  | .loadFontset font => hostLoadFontset font s
  | .load font image =>
    match hostLoad font image s with
    | .ok t => t
    | .error _ => s
  | .setQuirkShift q => s.setQuirkShift q
  | .setQuirkJump q => s.setQuirkJump q
  | .setQuirkIndex q => s.setQuirkIndex q

/-- The sound output, `ST != 0` (R28, R257). -/
def State.soundOn (s : State) : Bool := s.st != 0

/-- The display read port: a cell as a byte, 0 or 1 (R259, D24). -/
def State.readDisp (s : State) (k : CellIndex) : Byte := (s.cell k).zeroExtend 8

/-- The numeric codes of R241, the spec's own numbers (D7). -/
def FaultKind.code : FaultKind → Nat
  | .decodeError => 1
  | .executionError => 2
  | .stackUnderflow => 3
  | .capacityError => 4
  | .stackOverflow => 5
  | .fetchFault => 6
  | .memoryBoundsFault => 7
  | .keyIndexFault => 8

/-- The diagnostic detail of a fault beside the recorded triple (R240, R241). -/
inductive FaultDetail where
  | fetchCause (cause : FetchCause)
  | address (a : Nat)
  | keyValue (b : Byte)
  deriving DecidableEq, Repr

/-- The detail of the latched fault, read off the halted state: the sub-cause of a fetch fault, the lowest out-of-range
address `max(I, 4096)`, the value that is no key. A fault changes nothing else, so the halted state still holds what it
needs (R241, R246; log 22). -/
def State.faultDetail (s : State) : Option FaultDetail :=
  match s.fault with
  | none => none
  | some r =>
    match r.kind, r.op with
    | .fetchFault, _ => (fetchCause r.addr).map .fetchCause
    | .memoryBoundsFault, _ => some (.address (max s.i.toNat 4096))
    | .keyIndexFault, some op => some (.keyValue (s.getV (opX op)))
    | _, _ => none

end Sys2Proof.Machine
end

