-- ==== Sys2Proof/Machine/Step.lean ====
section
/-! DEFINITION. One CPU step, the ticks that fall before it included (`40_step_cycle.md` R111, R116, R117). -/

namespace Sys2Proof.Machine

/-- One step: none while `FAULT` is set (R116); otherwise the free interval before it (R117), then fetch and decode,
then execute (R111). -/
def step (s : State) : Host.Outcome State Fault Refusal :=
  match s.fault with
  | some r => .fault (.halted r)
  | none =>
    match s.elapse.fetchDecode with
    | .faulted t => .next t
    | .ready i t => exec i t

/-- `s` with an instruction, given by the bits the opcode table numbers, placed where `step` fetches next: any latched
fault is cleared, and a `PC` that cannot be fetched from is put at the entry point, so that the next step runs it
(log 21). -/
def State.withFetchWord (s : State) (nbits w : Nat) : State :=
  s.readyToFetch.placeWord (tableWord nbits w)

end Sys2Proof.Machine
end

