-- ==== Sys2Proof/Safety.lean ====
section
/-! DEFINITION. The terms the claims use: the pieces of state and what it is for a piece to stay as it was, the "writes"
and "faults" columns of the instruction rules, and the invariant of the machine (`10_state.md` R35). -/

namespace Sys2Proof.Machine

/-- The pieces of state, one by one: each register, each display cell and each byte of memory on its own (R20). -/
inductive Piece where
  | v (r : Reg)
  | i
  | pc
  | stack
  | cell (k : CellIndex)
  | mem (a : Nat)
  | dt
  | st
  | quirkShift
  | quirkJump
  | quirkIndex
  | stackDepth
  | wait
  | fault
  | stepNo
  deriving DecidableEq, Repr

/-- A piece has the same value in two states. -/
def Piece.Same (s t : State) : Piece → Prop
  | .v r => t.getV r = s.getV r
  | .i => t.i = s.i
  | .pc => t.pc = s.pc
  | .stack => t.stack = s.stack
  | .cell k => t.cell k = s.cell k
  | .mem a => t.readByte a = s.readByte a
  | .dt => t.dt = s.dt
  | .st => t.st = s.st
  | .quirkShift => t.quirkShift = s.quirkShift
  | .quirkJump => t.quirkJump = s.quirkJump
  | .quirkIndex => t.quirkIndex = s.quirkIndex
  | .stackDepth => t.stackDepth = s.stackDepth
  | .wait => t.wait = s.wait
  | .fault => t.fault = s.fault
  | .stepNo => t.stepNo = s.stepNo

/-- The frame: every piece outside `W` is as it was. -/
def OnlyChanges (W : Piece → Prop) (s t : State) : Prop := ∀ p, ¬ W p → p.Same s t

/-- The display cells under a sprite's set bits, in the numbers of R201 and R203: row `r` of `n`, column `c` of 8, bit
`7 - c` of the byte at `I + r`, cell `(vx + c + 64 * (vy + r)) mod 2048`. -/
def State.underSprite (s : State) (vx vy : Byte) (n : Nat) (k : CellIndex) : Prop :=
  ∃ r c, r < n ∧ c < 8 ∧ (s.readByte (s.i.toNat + r)).getLsbD (7 - c) = true ∧
    k.val = (vx.toNat + c + 64 * (vy.toNat + r)) % 2048

/-- The values of R37, but for the parameters, which reset leaves alone. -/
def State.HasResetValues (s : State) : Prop :=
  (∀ a, s.readByte a = 0) ∧ (∀ r, s.getV r = 0) ∧ s.i = 0 ∧ s.pc = 0x200 ∧ s.stack = [] ∧ (∀ k, s.cell k = 0) ∧
    s.dt = 0 ∧ s.st = 0 ∧ s.wait = none ∧ s.fault = none

/-- The parameters, the three quirk flags and `STACK_DEPTH`, are as they were. -/
def SameParameters (s t : State) : Prop :=
  t.quirkShift = s.quirkShift ∧ t.quirkJump = s.quirkJump ∧ t.quirkIndex = s.quirkIndex ∧
    t.stackDepth = s.stackDepth

/-- What an instruction may write when it raises no fault: the "Writes" line of its rule, `PC` listed only where the
instruction changes it again after the fetch (R113). -/
def mayWrite (s : State) : Instr → Piece → Prop
  | .cls, p => ∃ k, p = .cell k
  | .ret, p => p = .pc ∨ p = .stack
  | .jp _, p => p = .pc
  | .call _, p => p = .pc ∨ p = .stack
  | .seImm _ _, p => p = .pc
  | .sneImm _ _, p => p = .pc
  | .seReg _ _ _, p => p = .pc
  | .ldImm x _, p => p = .v x
  | .addImm x _, p => p = .v x
  | .ldReg x _, p => p = .v x
  | .orReg x _, p => p = .v x
  | .andReg x _, p => p = .v x
  | .xorReg x _, p => p = .v x
  | .addReg x _, p => p = .v VF ∨ p = .v x
  | .subReg x _, p => p = .v VF ∨ p = .v x
  | .shr x _, p => p = .v VF ∨ p = .v x
  | .subnReg x _, p => p = .v VF ∨ p = .v x
  | .shl x _, p => p = .v VF ∨ p = .v x
  | .sneReg _ _ _, p => p = .pc
  | .ldI _, p => p = .i
  | .jpV0 _, p => p = .pc
  | .rnd x _, p => p = .v x
  | .drw x y n, p => p = .v VF ∨ ∃ k, s.underSprite (s.getV x) (s.getV y) n.toNat k ∧ p = .cell k
  | .skp _, p => p = .pc
  | .sknp _, p => p = .pc
  | .ldVxDt x, p => p = .v x
  | .ldVxK x, p => p = .wait ∨ (s.drawKeyEvent = none ∧ p = .pc) ∨ (s.drawKeyEvent ≠ none ∧ p = .v x)
  | .ldDtVx _, p => p = .dt
  | .ldStVx _, p => p = .st
  | .addI _, p => p = .i
  | .ldF _, p => p = .i
  | .ldB _, p => ∃ j, j < 3 ∧ p = .mem (s.ea j)
  | .storeRegs x, p => (∃ r, r ≤ x ∧ p = .mem (s.ea r.val)) ∨ (s.quirkIndex = true ∧ p = .i)
  | .loadRegs x, p => (∃ r, r ≤ x ∧ p = .v r) ∨ (s.quirkIndex = true ∧ p = .i)

/-- When an instruction raises a fault, and which: the "Faults" line of its rule (R242). -/
def faultOf (s : State) : Instr → Option FaultKind
  | .cls => none
  | .ret => if s.sp = 0 then some .stackUnderflow else none
  | .jp _ => none
  | .call _ => if s.stackDepth = some s.sp then some .stackOverflow else none
  | .seImm _ _ => none
  | .sneImm _ _ => none
  | .seReg _ _ _ => none
  | .ldImm _ _ => none
  | .addImm _ _ => none
  | .ldReg _ _ => none
  | .orReg _ _ => none
  | .andReg _ _ => none
  | .xorReg _ _ => none
  | .addReg _ _ => none
  | .subReg _ _ => none
  | .shr _ _ => none
  | .subnReg _ _ => none
  | .shl _ _ => none
  | .sneReg _ _ _ => none
  | .ldI _ => none
  | .jpV0 _ => none
  | .rnd _ _ => none
  | .drw _ _ n => if 0 < n.toNat ∧ s.i.toNat + (n.toNat - 1) > 4095 then some .memoryBoundsFault else none
  | .skp x => if (s.getV x).toNat > 15 then some .keyIndexFault else none
  | .sknp x => if (s.getV x).toNat > 15 then some .keyIndexFault else none
  | .ldVxDt _ => none
  | .ldVxK _ => none
  | .ldDtVx _ => none
  | .ldStVx _ => none
  | .addI _ => none
  | .ldF _ => none
  | .ldB _ => if s.i.toNat + 2 > 4095 then some .memoryBoundsFault else none
  | .storeRegs x => if s.i.toNat + x.val > 4095 then some .memoryBoundsFault else none
  | .loadRegs x => if s.i.toNat + x.val > 4095 then some .memoryBoundsFault else none

/-- The invariant of R35, with the canonical form of memory and what a latched fault can be (R114, R240, R245). -/
structure State.Inv (s : State) : Prop where
  /-- Memory is canonical: every listed address is in 0 to 4095. -/
  memory : Memory.wf s.mem
  /-- `SP` is in 0 to `STACK_DEPTH`, if the stack has a depth (R25). -/
  stackBound : ∀ d, s.stackDepth = some d → s.sp ≤ d
  /-- Every stack entry is even and in 2 to 0x1000. -/
  stackEntries : ∀ w ∈ s.stack, w.toNat % 2 = 0 ∧ 2 ≤ w.toNat ∧ w.toNat ≤ 0x1000
  /-- The largest `PC` any instruction leaves is 0x10FE (R24). -/
  pcBound : s.pc.toNat ≤ 0x10FE
  /-- While a wait is pending, `PC` holds the address of its FX0A. -/
  waiting : ∀ x, s.wait = some x → s.fetchWord = encode (.ldVxK x)
  /-- `ExecutionError` and `CapacityError` are never latched, and only a fetch fault has no word. -/
  latched : ∀ r, s.fault = some r →
    r.kind ≠ .executionError ∧ r.kind ≠ .capacityError ∧ (r.op = none ↔ r.kind = .fetchFault)

end Sys2Proof.Machine
end

