-- ==== Sys2Proof/Certificates/Slice0/Obligations.lean ====
section
/-! DEFINITION. The statements for the provers, in terms of the spec's rules. `OnlyChanges W s t` is the frame: every
register, display cell, byte of memory and other piece of state outside `W` is in `t` as it is in `s`. During execute
`PC` is the fetch address plus 2 (R112), so `s.pc - 2` is the fetch address `a` of a fault record. -/

section

open Sys2Proof Sys2Proof.Machine

/-! ### Encoding -/

/-- Decode and encode agree for every instruction, every operand at every value (R84, R85). The numbers of the opcode
map are the spec's own supply (D15, log 9). -/
def Obligations.DecodeOfEncode : Prop :=
  ∀ i : Instr, decode (encode i) = some i

/-- No bit of a word is lost by decoding, and a word is decoded only by the row it selects (R84, R85; D15, log 9). -/
def Obligations.EncodeOfDecode : Prop :=
  ∀ (w : Word) (i : Instr), decode w = some i → encode i = w ∧ w &&& (opRow i).mask = (opRow i).pattern

/-- A word that selects a row decodes to an instruction of that row, so no word selects two rows (R85; D15, log 9). -/
def Obligations.SelectedRowDecodes : Prop :=
  ∀ (w : Word) (i : Instr), w &&& (opRow i).mask = (opRow i).pattern → ∃ j, decode w = some j ∧ opRow j = opRow i

/-- The illegal words are exactly those of R87's table (the numbers are D15's, log 9; group 0 by D14, log 11). -/
def Obligations.IllegalWords : Prop :=
  ∀ w : Word, decode w = none ↔
    (w.toNat < 0x1000 ∧ w.toNat ≠ 0x00E0 ∧ w.toNat ≠ 0x00EE) ∨
    (w.toNat / 0x1000 = 0x8 ∧ w.toNat % 16 ∈ [0x8, 0x9, 0xA, 0xB, 0xC, 0xD, 0xF]) ∨
    (w.toNat / 0x1000 = 0xE ∧ w.toNat % 256 ∉ [0x9E, 0xA1]) ∨
    (w.toNat / 0x1000 = 0xF ∧ w.toNat % 256 ∉ [0x07, 0x0A, 0x15, 0x18, 0x1E, 0x29, 0x33, 0x55, 0x65])

/-- Words of every family written out from the spec's encodings decode to the instructions they stand for, and two
illegal words to none (R85, vectors B1 of `95_test_vectors.md`; D15, log 9). -/
def Obligations.TableWordsDecode : Prop :=
  decode 0x00E0 = some .cls ∧ decode 0x00EE = some .ret ∧ decode 0x1234 = some (.jp 0x234) ∧
    decode 0x3142 = some (.seImm 1 0x42) ∧ decode 0x5121 = some (.seReg 1 2 1) ∧
    decode 0x7301 = some (.addImm 3 0x01) ∧ decode 0x8124 = some (.addReg 1 2) ∧ decode 0x812E = some (.shl 1 2) ∧
    decode 0xA123 = some (.ldI 0x123) ∧ decode 0xC10F = some (.rnd 1 0x0F) ∧ decode 0xD123 = some (.drw 1 2 3) ∧
    decode 0xE19E = some (.skp 1) ∧ decode 0xF30A = some (.ldVxK 3) ∧ decode 0xF129 = some (.ldF 1) ∧
    decode 0xF255 = some (.storeRegs 2) ∧ decode 0x0000 = none ∧ decode 0x8128 = none

/-- Fetch is big-endian (R55), and so is a loaded image: its words, from 0x200 on, are its bytes in pairs, the first of
a pair times 256 plus the second. -/
def Obligations.FetchIsBigEndian : Prop :=
  (∀ s : State, s.fetchWord.toNat = (s.readByte s.pc.toNat).toNat * 256 + (s.readByte (s.pc.toNat + 1)).toNat) ∧
    ∀ (font : Font) (image : List Byte) (s t : State), hostLoad font image s = .ok t →
      t.pc = 0x200 ∧ ∀ (j : Nat) (h : 2 * j + 1 < image.length),
        (t.setPc (BitVec.ofNat 16 (0x200 + 2 * j))).fetchWord.toNat =
          image[2 * j].toNat * 256 + image[2 * j + 1].toNat

/-! ### Reset, load and the host's operations -/

/-- What `Reset` leaves, and the state at construction (R37, R280). That `FAULT` is cleared and the quirk flags are
untouched is the spec's D19 (log 20); `STACK_DEPTH`, a parameter (R5), is untouched with them (log 3). -/
def Obligations.ResetLeavesTheResetValues : Prop :=
  (∀ s : State, (hostReset s).HasResetValues ∧ SameParameters s (hostReset s)) ∧ State.reset.HasResetValues

/-- After a successful load the state is the reset state (its values those of R37) with the font, the image and zeros in
memory (R38). -/
def Obligations.LoadPlacesFontAndImage : Prop :=
  ∀ (font : Font) (image : List Byte) (s : State), image.length ≤ 3584 →
    (hostReset s).HasResetValues ∧ ∃ t, hostLoad font image s = .ok t ∧
      (∀ (j : Nat) (h : j < 80), t.readByte j = font[j]) ∧
      (∀ (j : Nat) (h : j < image.length), t.readByte (0x200 + j) = image[j]) ∧
      (∀ a, 80 ≤ a → a < 0x200 ∨ 0x200 + image.length ≤ a → t.readByte a = 0) ∧
      OnlyChanges (fun p => ∃ a, p = .mem a) (hostReset s) t

/-- Too long an image is rejected whole and changes nothing (R283; that nothing changes is the spec's D18, log 19). -/
def Obligations.LongImageIsRejected : Prop :=
  ∀ (font : Font) (image : List Byte) (s : State), image.length > 3584 →
    hostLoad font image s = .error .capacityError ∧ s.perform (.load font image) = s

/-- Setting a quirk flag changes that flag and nothing else (R285; at any step boundary is the spec's D19, log 20). -/
def Obligations.QuirkSettingChangesOnlyTheFlag : Prop :=
  ∀ (s : State) (q : Bool),
    ((s.perform (.setQuirkShift q)).quirkShift = q ∧
      OnlyChanges (fun p => p = .quirkShift) s (s.perform (.setQuirkShift q))) ∧
    ((s.perform (.setQuirkJump q)).quirkJump = q ∧
      OnlyChanges (fun p => p = .quirkJump) s (s.perform (.setQuirkJump q))) ∧
    ((s.perform (.setQuirkIndex q)).quirkIndex = q ∧
      OnlyChanges (fun p => p = .quirkIndex) s (s.perform (.setQuirkIndex q)))

/-! ### Timers -/

/-- After `n` ticks each timer is lower by `n`, floored at 0, and nothing else has changed (R256; that ticks do not
look at `FAULT` or `WAIT` is the spec's D20, log 5). -/
def Obligations.TicksCountDown : Prop :=
  ∀ (n : Nat) (s : State),
    (State.ticks n s).dt.toNat = s.dt.toNat - n ∧ (State.ticks n s).st.toNat = s.st.toNat - n ∧
      OnlyChanges (fun p => p = .dt ∨ p = .st) s (State.ticks n s)

/-- What comes between two steps is a number of ticks, a free value (R117, log 5), and a fresh step number (log 4): the
model's own form of the interleaving. It holds whatever the number is. -/
def Obligations.IntervalIsSomeTicks : Prop :=
  ∀ s : State, s.elapse = (State.ticks (Config.ticksBefore s.stepNo) s).setStepNo (s.stepNo + 1)

/-- The delay timer (R27): down by exactly 1 per tick and never below 0, however many ticks fall before a step (the
model's free value, log 5, indexed by its step number, log 4; the spec's D20, R117, R256), written by FX15 and the
tick only, read by FX07, 0 after reset. -/
def Obligations.DelayTimer : Prop :=
  (∀ s : State, s.tick.dt.toNat = s.dt.toNat - 1 ∧
      s.elapse.dt.toNat = s.dt.toNat - Config.ticksBefore s.stepNo) ∧
    (∀ (x : Reg) (s : State), ∃ t, exec (.ldDtVx x) s = .next t ∧ t.dt = s.getV x) ∧
    (∀ (i : Instr) (s t : State), exec i s = .next t → (∀ x, i ≠ .ldDtVx x) → t.dt = s.dt) ∧
    (∀ (x : Reg) (s : State), ∃ t, exec (.ldVxDt x) s = .next t ∧ t.getV x = s.dt) ∧
    State.reset.dt = 0 ∧ ∀ s : State, (hostReset s).dt = 0

/-- The sound timer (R28): the tick's behaviour as for the delay timer, however many ticks fall before a step (the
model's free value, log 5, indexed by its step number, log 4; the spec's D20, R117, R256), written by FX18 and the
tick only, read by no instruction, sounding exactly while it is not 0, 0 after reset. -/
def Obligations.SoundTimer : Prop :=
  (∀ s : State, s.tick.st.toNat = s.st.toNat - 1 ∧
      s.elapse.st.toNat = s.st.toNat - Config.ticksBefore s.stepNo) ∧
    (∀ (x : Reg) (s : State), ∃ t, exec (.ldStVx x) s = .next t ∧ t.st = s.getV x) ∧
    (∀ (i : Instr) (s t : State), exec i s = .next t → (∀ x, i ≠ .ldStVx x) →
      t.st = s.st ∧ ∀ b, exec i (s.setSt b) = .next (t.setSt b)) ∧
    (∀ (x : Reg) (s : State) (b : Byte), exec (.ldStVx x) (s.setSt b) = exec (.ldStVx x) s) ∧
    (∀ s : State, s.soundOn = true ↔ s.st ≠ 0) ∧
    State.reset.st = 0 ∧ ∀ s : State, (hostReset s).st = 0

/-! ### The step -/

/-- A step runs the decoded instruction: when the bytes at `PC` decode to `i` and the fetch may happen, the step is
`exec i` on the state after the interval with `PC` moved past the word; the interval touches the timers and the model's
step number only (R111, R112, R117). -/
def Obligations.StepRunsDecodedInstruction : Prop :=
  ∀ (s : State) (i : Instr), s.fault = none → s.pc.toNat ≤ 0x0FFE → s.pc.toNat % 2 = 0 →
    decode (joinBytes (s.readByte s.pc.toNat) (s.readByte (s.pc.toNat + 1))) = some i →
    step s = exec i (s.elapse.setPc (s.pc + 2)) ∧
      OnlyChanges (fun p => p = .dt ∨ p = .st ∨ p = .stepNo) s s.elapse

/-- A fetch at an odd `PC` or above 0x0FFE latches a fetch fault without a word and changes nothing else; the range is
checked before the parity (R112, R241, R246; the fault is the spec's D2, log 15). -/
def Obligations.BadFetchFaults : Prop :=
  ∀ s : State, s.fault = none → s.pc.toNat > 0x0FFE ∨ s.pc.toNat % 2 = 1 →
    ∃ t, step s = .next t ∧ t.fault = some ⟨.fetchFault, none, s.pc⟩ ∧
      t.faultDetail = some (.fetchCause (if s.pc.toNat > 0x0FFE then .outOfRange else .misaligned)) ∧
      OnlyChanges (fun p => p = .fault ∨ p = .dt ∨ p = .st ∨ p = .stepNo) s t

/-- A word of no row is a decode error, reported with the word and its address, after the fetch (R243); that it is
latched and the step a next state is the spec's D6 (log 7). -/
def Obligations.IllegalWordFaults : Prop :=
  ∀ s : State, s.fault = none → s.pc.toNat ≤ 0x0FFE → s.pc.toNat % 2 = 0 → decode s.fetchWord = none →
    ∃ t, step s = .next t ∧ t.fault = some ⟨.decodeError, some s.fetchWord, s.pc⟩ ∧ t.pc = s.pc + 2 ∧
      OnlyChanges (fun p => p = .fault ∨ p = .pc ∨ p = .dt ∨ p = .st ∨ p = .stepNo) s t

/-- Faults are precise: a step that latches a fault records the fetched word and its address, and has changed nothing
else but `PC`, which is past the word (R240, R246; the latch is the spec's D6, log 7). For a fetch fault see
`BadFetchFaults`. -/
def Obligations.FaultsArePrecise : Prop :=
  ∀ (s t : State) (r : FaultRecord), step s = .next t → t.fault = some r → r.kind ≠ .fetchFault →
    r.op = some s.fetchWord ∧ r.addr = s.pc ∧ t.pc = s.pc + 2 ∧
      OnlyChanges (fun p => p = .fault ∨ p = .pc ∨ p = .dt ∨ p = .st ∨ p = .stepNo) s t

/-- A halted CPU has no step, a tick is still possible and leaves the record, and only reset and load clear it (R116,
R249, R256; the spec's D6 and D19, log 7, log 20). -/
def Obligations.HaltedUntilReset : Prop :=
  ∀ (s : State) (r : FaultRecord), s.fault = some r →
    step s = .fault (.halted r) ∧ s.tick.fault = some r ∧ s.tick.dt.toNat = s.dt.toNat - 1 ∧
      (∀ a : HostAction, a ≠ .reset → (∀ font image, a ≠ .load font image) → (s.perform a).fault = some r) ∧
      (s.perform .reset).fault = none ∧
      ∀ (font : Font) (image : List Byte) (t : State), hostLoad font image s = .ok t → t.fault = none

/-! ### The machine as a whole -/

/-- The invariant holds at reset (R35, R37). -/
def Obligations.ResetMeetsInvariant : Prop := State.reset.Inv

/-- Every step keeps the invariant: canonical memory inside the address space, a bounded stack of even return
addresses, a bounded `PC`, a pending wait at its own instruction, and only faults a step can raise (R35, R24, R114). -/
def Obligations.StepKeepsInvariant : Prop :=
  ∀ s t : State, s.Inv → step s = .next t → t.Inv

/-- The host's actions keep the invariant; a font load on its own keeps it when no wait is pending, for it could
overwrite the waiting instruction (R35, log 23). -/
def Obligations.HostActionsKeepInvariant : Prop :=
  ∀ (s : State) (a : HostAction), s.Inv → ((∃ font, a = .loadFontset font) → s.wait = none) → (s.perform a).Inv

/-- Execute changes exactly what the instruction's rule says, and no other state (R113): for every instruction, if it
raises no fault, it answers a next state in which only the pieces of its "writes" line may differ. -/
def Obligations.ExecuteChangesOnlyWhatItWrites : Prop :=
  ∀ (i : Instr) (s : State), faultOf s i = none → ∃ t, exec i s = .next t ∧ OnlyChanges (mayWrite s i) s t

/-- Which instruction raises what, and when (R242): the record names the instruction's word and its address, and
nothing else changes. Bounds, overflow and key faults are the spec's D4, D5, D11 (log 14, log 3, log 16). -/
def Obligations.ExecuteRaisesWhatItsRuleSays : Prop :=
  ∀ (i : Instr) (s : State) (k : FaultKind), faultOf s i = some k →
    ∃ t, exec i s = .next t ∧ t.fault = some ⟨k, some (encode i), s.pc - 2⟩ ∧ OnlyChanges (fun p => p = .fault) s t

/-- The flag register (R22): only the six flag-writing instructions write `VF` beside their own destination, each 0
or 1 when its destination is another register; no other instruction writes it unless its own destination is `VF`. -/
def Obligations.OnlySixInstructionsWriteFlag : Prop :=
  ∀ (i : Instr) (s t : State), exec i s = .next t →
    ((∃ x y, (i = .addReg x y ∨ i = .subReg x y ∨ i = .shr x y ∨ i = .subnReg x y ∨ i = .shl x y) ∧
        (x ≠ VF → t.getV VF = 0 ∨ t.getV VF = 1)) ∨
      (∃ x y n, i = .drw x y n ∧ (t.fault = s.fault → t.getV VF = 0 ∨ t.getV VF = 1)) ∨
      (∃ nn, i = .ldImm VF nn ∨ i = .addImm VF nn ∨ i = .rnd VF nn) ∨
      (∃ y, i = .ldReg VF y ∨ i = .orReg VF y ∨ i = .andReg VF y ∨ i = .xorReg VF y) ∨
      i = .ldVxDt VF ∨ i = .ldVxK VF ∨ i = .loadRegs VF ∨
      t.getV VF = s.getV VF)

/-- No instruction but DXYN reads the display, and DXYN only for its flag: two states that differ in the display alone
go to states that differ in the display alone, and in `VF` after DXYN (R26). -/
def Obligations.DisplayIsReadForCollisionOnly : Prop :=
  ∀ (i : Instr) (s t : State) (d : Vector Row 32), exec i s = .next t →
    ∃ u, exec i (s.setDisp d) = .next u ∧
      OnlyChanges (fun p => (∃ k, p = .cell k) ∨ ((∃ x y n, i = .drw x y n) ∧ p = .v VF)) t u

/-! ### Control transfer -/

/-- `RET` (R130); in a state that meets the invariant the popped value is even and in 2 to 0x1000. The number of the
encoding is the spec's D15 (log 9), the latched fault its D6 (log 7). -/
def Obligations.ReturnPops : Prop :=
  encode .ret = 0x00EE ∧
    (∀ s : State, s.stack = [] →
      ∃ t, exec .ret s = .next t ∧ t.fault = some ⟨.stackUnderflow, some 0x00EE, s.pc - 2⟩ ∧
        OnlyChanges (fun p => p = .fault) s t) ∧
    ∀ (s : State) (w : Word) (rest : List Word), s.stack = w :: rest →
      (s.Inv → w.toNat % 2 = 0 ∧ 2 ≤ w.toNat ∧ w.toNat ≤ 0x1000) ∧
        ∃ t, exec .ret s = .next t ∧ t.pc = w ∧ t.stack = rest ∧ OnlyChanges (fun p => p = .pc ∨ p = .stack) s t

/-- `JP NNN` (R131): any target is accepted. The numbers of the encoding are the spec's D15 (log 9). -/
def Obligations.JumpGoesToLiteral : Prop :=
  ∀ (nnn : Addr) (s : State),
    (encode (.jp nnn) &&& 0xF000 = 0x1000 ∧ opNNN (encode (.jp nnn)) = nnn) ∧
      ∃ t, exec (.jp nnn) s = .next t ∧ t.pc.toNat = nnn.toNat ∧ OnlyChanges (fun p => p = .pc) s t

/-- `CALL NNN` (R132), for every `STACK_DEPTH`, the unbounded stack included (R5, R25): the overflow fault and the
parameter are the spec's D5 (log 3). -/
def Obligations.CallPushesReturnAddress : Prop :=
  ∀ (nnn : Addr) (s : State),
    (s.stackDepth ≠ some s.stack.length →
      ∃ t, exec (.call nnn) s = .next t ∧ t.pc.toNat = nnn.toNat ∧ t.stack = s.pc :: s.stack ∧
        OnlyChanges (fun p => p = .pc ∨ p = .stack) s t) ∧
    (s.stackDepth = some s.stack.length →
      ∃ t, exec (.call nnn) s = .next t ∧ t.fault = some ⟨.stackOverflow, some (encode (.call nnn)), s.pc - 2⟩ ∧
        OnlyChanges (fun p => p = .fault) s t)

/-- A call and a return from any later state with the stack as the call left it: `PC` is back after the call and the
stack is as before (R112, R130, R132; vector A6). -/
def Obligations.CallThenReturn : Prop :=
  ∀ (nnn : Addr) (s : State), s.stackDepth ≠ some s.stack.length →
    ∃ t, exec (.call nnn) s = .next t ∧
      ∀ u : State, u.stack = t.stack → ∃ r, exec .ret u = .next r ∧ r.pc = s.pc ∧ r.stack = s.stack

/-- `SE Vx, NN` and `SNE Vx, NN` (R133, R134). The numbers of the encodings are the spec's D15 (log 9). -/
def Obligations.LiteralSkips : Prop :=
  ∀ (x : Reg) (nn : Byte) (s : State),
    (encode (.seImm x nn) &&& 0xF000 = 0x3000 ∧ opX (encode (.seImm x nn)) = x ∧ opNN (encode (.seImm x nn)) = nn) ∧
    (encode (.sneImm x nn) &&& 0xF000 = 0x4000 ∧ opX (encode (.sneImm x nn)) = x ∧ opNN (encode (.sneImm x nn)) = nn) ∧
    (∃ t, exec (.seImm x nn) s = .next t ∧
      t.pc.toNat = (if s.getV x = nn then (s.pc.toNat + 2) % 65536 else s.pc.toNat) ∧
      OnlyChanges (fun p => p = .pc) s t) ∧
    ∃ t, exec (.sneImm x nn) s = .next t ∧
      t.pc.toNat = (if s.getV x ≠ nn then (s.pc.toNat + 2) % 65536 else s.pc.toNat) ∧
      OnlyChanges (fun p => p = .pc) s t

/-- `SE Vx, Vy` and `SNE Vx, Vy` (R135, R136), whatever the low nibble (R86, the spec's D14, log 11). -/
def Obligations.RegisterSkips : Prop :=
  ∀ (x y : Reg) (ignored : Nibble) (s : State),
    (∃ t, exec (.seReg x y ignored) s = .next t ∧
      t.pc.toNat = (if s.getV x = s.getV y then (s.pc.toNat + 2) % 65536 else s.pc.toNat) ∧
      OnlyChanges (fun p => p = .pc) s t) ∧
    ∃ t, exec (.sneReg x y ignored) s = .next t ∧
      t.pc.toNat = (if s.getV x ≠ s.getV y then (s.pc.toNat + 2) % 65536 else s.pc.toNat) ∧
      OnlyChanges (fun p => p = .pc) s t

/-- `JP V0, NNN` (R137): the register is `V[X]` with the quirk on, X the high nibble of the literal, else `V0`; the sum
is not reduced and fits 16 bits. The numbers of the encoding are the spec's D15 (log 9). -/
def Obligations.OffsetJump : Prop :=
  ∀ (nnn : Addr) (s : State),
    (encode (.jpV0 nnn) &&& 0xF000 = 0xB000 ∧ opNNN (encode (.jpV0 nnn)) = nnn) ∧
      ∃ t, exec (.jpV0 nnn) s = .next t ∧
        t.pc.toNat = (s.getV (if s.quirkJump then opX (encode (.jpV0 nnn)) else 0)).toNat + nnn.toNat ∧
        t.pc.toNat ≤ 0x10FE ∧ OnlyChanges (fun p => p = .pc) s t

/-- The idle loop: a step of `JP a` at `a` changes nothing but what the interval before it does (R118, the spec's D23;
R131). -/
def Obligations.IdleLoopStays : Prop :=
  ∀ (s : State) (a : Addr), s.fault = none → s.pc.toNat = a.toNat → a.toNat ≤ 0x0FFE → a.toNat % 2 = 0 →
    s.fetchWord = encode (.jp a) →
    ∃ t, step s = .next t ∧ OnlyChanges (fun p => p = .dt ∨ p = .st ∨ p = .stepNo) s t

/-! ### Arithmetic and logic -/

/-- `LD Vx, NN` (R150). The numbers of the encoding are the spec's D15 (log 9). -/
def Obligations.LoadLiteral : Prop :=
  ∀ (x : Reg) (nn : Byte) (s : State),
    (encode (.ldImm x nn) &&& 0xF000 = 0x6000 ∧ opX (encode (.ldImm x nn)) = x ∧ opNN (encode (.ldImm x nn)) = nn) ∧
      ∃ t, exec (.ldImm x nn) s = .next t ∧ t.getV x = nn ∧ OnlyChanges (fun p => p = .v x) s t

/-- `ADD Vx, NN` (R151): modulo 256, and `VF` is not a flag. The numbers of the encoding are the spec's D15
(log 9). -/
def Obligations.AddLiteral : Prop :=
  ∀ (x : Reg) (nn : Byte) (s : State),
    (encode (.addImm x nn) &&& 0xF000 = 0x7000 ∧ opX (encode (.addImm x nn)) = x ∧ opNN (encode (.addImm x nn)) = nn) ∧
      ∃ t, exec (.addImm x nn) s = .next t ∧ (t.getV x).toNat = ((s.getV x).toNat + nn.toNat) % 256 ∧
        OnlyChanges (fun p => p = .v x) s t

/-- `LD Vx, Vy`, `OR`, `AND`, `XOR` (R152 to R155): bit by bit, and no flag. The numbers of the
encodings are the spec's D15 (log 9). -/
def Obligations.CopyAndLogic : Prop :=
  ∀ (x y : Reg) (s : State),
    (∀ i ∈ [Instr.ldReg x y, .orReg x y, .andReg x y, .xorReg x y],
      encode i &&& 0xF000 = 0x8000 ∧ opX (encode i) = x ∧ opY (encode i) = y) ∧
    (opN (encode (.ldReg x y)) = 0 ∧ opN (encode (.orReg x y)) = 1 ∧ opN (encode (.andReg x y)) = 2 ∧
      opN (encode (.xorReg x y)) = 3) ∧
    (∃ t, exec (.ldReg x y) s = .next t ∧ t.getV x = s.getV y ∧ OnlyChanges (fun p => p = .v x) s t) ∧
    (∃ t, exec (.orReg x y) s = .next t ∧
      (∀ j, (t.getV x).getLsbD j = ((s.getV x).getLsbD j || (s.getV y).getLsbD j)) ∧
      OnlyChanges (fun p => p = .v x) s t) ∧
    (∃ t, exec (.andReg x y) s = .next t ∧
      (∀ j, (t.getV x).getLsbD j = ((s.getV x).getLsbD j && (s.getV y).getLsbD j)) ∧
      OnlyChanges (fun p => p = .v x) s t) ∧
    ∃ t, exec (.xorReg x y) s = .next t ∧
      (∀ j, (t.getV x).getLsbD j = ((s.getV x).getLsbD j != (s.getV y).getLsbD j)) ∧
      OnlyChanges (fun p => p = .v x) s t

/-- `ADD Vx, Vy` (R156). That `VF` is written before `V[X]`, so that with X = 15 it ends as the sum, is the spec's D8
(log 10). -/
def Obligations.AddRegisters : Prop :=
  ∀ (x y : Reg) (s : State),
    ∃ t, exec (.addReg x y) s = .next t ∧
      (t.getV x).toNat = ((s.getV x).toNat + (s.getV y).toNat) % 256 ∧
      (x ≠ VF → t.getV VF = if (s.getV x).toNat + (s.getV y).toNat > 255 then 1 else 0) ∧
      OnlyChanges (fun p => p = .v VF ∨ p = .v x) s t

/-- `SUB Vx, Vy` (R157). The flag is strict; with X or Y = 15 the subtraction reads the flag just written: the spec's
D8 (log 10). -/
def Obligations.SubtractRegisters : Prop :=
  ∀ (x y : Reg) (s : State),
    ∃ t, exec (.subReg x y) s = .next t ∧
      (let f := if (s.getV x).toNat > (s.getV y).toNat then 1 else 0
       (x ≠ VF → (t.getV VF).toNat = f) ∧
       (t.getV x).toNat =
        (if x = VF then (if y = VF then 0 else (f + 256 - (s.getV y).toNat) % 256)
         else if y = VF then ((s.getV x).toNat + 256 - f) % 256
         else ((s.getV x).toNat + 256 - (s.getV y).toNat) % 256)) ∧
      OnlyChanges (fun p => p = .v VF ∨ p = .v x) s t

/-- `SUBN Vx, Vy` (R159). Strict flag, else 0 by the spec's D9 (log 12); X or Y = 15 by D8 (log 10). -/
def Obligations.SubtractReversed : Prop :=
  ∀ (x y : Reg) (s : State),
    ∃ t, exec (.subnReg x y) s = .next t ∧
      (let f := if (s.getV y).toNat > (s.getV x).toNat then 1 else 0
       (x ≠ VF → (t.getV VF).toNat = f) ∧
       (t.getV x).toNat =
        (if x = VF then (if y = VF then 0 else ((s.getV y).toNat + 256 - f) % 256)
         else if y = VF then (f + 256 - (s.getV x).toNat) % 256
         else ((s.getV y).toNat + 256 - (s.getV x).toNat) % 256)) ∧
      OnlyChanges (fun p => p = .v VF ∨ p = .v x) s t

/-- `SHR Vx, Vy` (R158): the value shifted is `V[Y]` with the quirk on and `V[X]` with it off. X = 15 by the spec's D8
(log 10). -/
def Obligations.ShiftRight : Prop :=
  ∀ (x y : Reg) (s : State),
    ∃ t, exec (.shr x y) s = .next t ∧
      (let v := (s.getV (if s.quirkShift then y else x)).toNat
       (x ≠ VF → (t.getV VF).toNat = v % 2 ∧ (t.getV x).toNat = v / 2) ∧ (x = VF → (t.getV VF).toNat = 0)) ∧
      OnlyChanges (fun p => p = .v VF ∨ p = .v x) s t

/-- `SHL Vx, Vy` (R160): the value shifted is `V[Y]` with the quirk on and `V[X]` with it off. X = 15 by the spec's D8
(log 10). -/
def Obligations.ShiftLeft : Prop :=
  ∀ (x y : Reg) (s : State),
    ∃ t, exec (.shl x y) s = .next t ∧
      (let v := (s.getV (if s.quirkShift then y else x)).toNat
       (x ≠ VF → (t.getV VF).toNat = v / 128 ∧ (t.getV x).toNat = v * 2 % 256) ∧
       (x = VF → (t.getV VF).toNat = if v ≥ 128 then 2 else 0)) ∧
      OnlyChanges (fun p => p = .v VF ∨ p = .v x) s t

/-- `RND Vx, NN` (R161): the draw masked, so no bit outside the literal; it holds for every value of the draw, a free
value (log 4). -/
def Obligations.RandomIsMasked : Prop :=
  ∀ (x : Reg) (nn : Byte) (s : State),
    ∃ t, exec (.rnd x nn) s = .next t ∧ (∀ j, (t.getV x).getLsbD j = (s.drawRandom.getLsbD j && nn.getLsbD j)) ∧
      (nn = 0 → t.getV x = 0) ∧ OnlyChanges (fun p => p = .v x) s t

/-! ### Index register and memory -/

/-- `LD I, NNN` (R180). The numbers of the encoding are the spec's D15 (log 9). -/
def Obligations.LoadIndex : Prop :=
  ∀ (nnn : Addr) (s : State),
    (encode (.ldI nnn) &&& 0xF000 = 0xA000 ∧ opNNN (encode (.ldI nnn)) = nnn) ∧
      ∃ t, exec (.ldI nnn) s = .next t ∧ t.i.toNat = nnn.toNat ∧ OnlyChanges (fun p => p = .i) s t

/-- `ADD I, Vx` (R181): 16-bit wrap-around, the spec's D10 (log 13), and `VF` is not written. -/
def Obligations.AddToIndex : Prop :=
  ∀ (x : Reg) (s : State),
    ∃ t, exec (.addI x) s = .next t ∧ t.i.toNat = (s.i.toNat + (s.getV x).toNat) % 65536 ∧
      OnlyChanges (fun p => p = .i) s t

/-- `LD F, Vx` (R182): five times the whole byte. The numbers of the encoding are the spec's D15 (log 9). -/
def Obligations.GlyphAddress : Prop :=
  ∀ (x : Reg) (s : State),
    (encode (.ldF x) &&& 0xF0FF = 0xF029 ∧ opX (encode (.ldF x)) = x) ∧
      ∃ t, exec (.ldF x) s = .next t ∧ t.i.toNat = (s.getV x).toNat * 5 ∧ OnlyChanges (fun p => p = .i) s t

/-- `LD B, Vx` (R183): hundreds, tens and units at `I`, `I + 1`, `I + 2`; the bounds fault is the spec's D4 (log 14). -/
def Obligations.StoreDecimalDigits : Prop :=
  ∀ (x : Reg) (s : State),
    (s.i.toNat + 2 ≤ 4095 →
      ∃ t, exec (.ldB x) s = .next t ∧
        (t.readByte (s.ea 0)).toNat = (s.getV x).toNat / 100 ∧
        (t.readByte (s.ea 1)).toNat = (s.getV x).toNat / 10 % 10 ∧
        (t.readByte (s.ea 2)).toNat = (s.getV x).toNat % 10 ∧
        OnlyChanges (fun p => p = .mem (s.ea 0) ∨ p = .mem (s.ea 1) ∨ p = .mem (s.ea 2)) s t) ∧
    (s.i.toNat + 2 > 4095 →
      ∃ t, exec (.ldB x) s = .next t ∧ t.fault = some ⟨.memoryBoundsFault, some (encode (.ldB x)), s.pc - 2⟩ ∧
        OnlyChanges (fun p => p = .fault) s t)

/-- `LD [I], Vx` (R184): register `r` at `I + r` for `r` from 0 to X; the bounds fault is the spec's D4 (log 14). -/
def Obligations.StoreRegisters : Prop :=
  ∀ (x : Reg) (s : State),
    (s.i.toNat + x.val ≤ 4095 →
      ∃ t, exec (.storeRegs x) s = .next t ∧ (∀ r, r ≤ x → t.readByte (s.ea r.val) = s.getV r) ∧
        (t.i.toNat = if s.quirkIndex then s.i.toNat + x.val + 1 else s.i.toNat) ∧
        OnlyChanges (fun p => (∃ r, r ≤ x ∧ p = .mem (s.ea r.val)) ∨ p = .i) s t) ∧
    (s.i.toNat + x.val > 4095 →
      ∃ t, exec (.storeRegs x) s = .next t ∧
        t.fault = some ⟨.memoryBoundsFault, some (encode (.storeRegs x)), s.pc - 2⟩ ∧
        OnlyChanges (fun p => p = .fault) s t)

/-- `LD Vx, [I]` (R185): register `r` from `I + r` for `r` from 0 to X; the bounds fault is the spec's D4 (log 14). -/
def Obligations.LoadRegisters : Prop :=
  ∀ (x : Reg) (s : State),
    (s.i.toNat + x.val ≤ 4095 →
      ∃ t, exec (.loadRegs x) s = .next t ∧ (∀ r, r ≤ x → t.getV r = s.readByte (s.i.toNat + r.val)) ∧
        (t.i.toNat = if s.quirkIndex then s.i.toNat + x.val + 1 else s.i.toNat) ∧
        OnlyChanges (fun p => (∃ r, r ≤ x ∧ p = .v r) ∨ p = .i) s t) ∧
    (s.i.toNat + x.val > 4095 →
      ∃ t, exec (.loadRegs x) s = .next t ∧
        t.fault = some ⟨.memoryBoundsFault, some (encode (.loadRegs x)), s.pc - 2⟩ ∧
        OnlyChanges (fun p => p = .fault) s t)

/-- `I` after FX55 and FX65 (R187): with the quirk on `I + X + 1`, at most 4096, so the reduction never acts; with it
off the value before; unchanged under a fault. -/
def Obligations.IndexAfterTransfer : Prop :=
  ∀ (x : Reg) (s : State) (i : Instr), i = .storeRegs x ∨ i = .loadRegs x →
    ∃ t, exec i s = .next t ∧
      (if s.i.toNat + x.val > 4095 then t.i = s.i
       else if s.quirkIndex then t.i.toNat = s.i.toNat + x.val + 1 ∧ t.i.toNat ≤ 4096
       else t.i = s.i)

/-- Registers stored by FX55 come back by FX65 at the same `I`, whatever the machine does in between with everything
but memory and `I` (R184, R185). -/
def Obligations.StoreThenLoad : Prop :=
  ∀ (x : Reg) (s : State), s.i.toNat + x.val ≤ 4095 →
    ∃ t, exec (.storeRegs x) s = .next t ∧
      ∀ u : State, u.mem = t.mem → u.i = s.i →
        ∃ r, exec (.loadRegs x) u = .next r ∧ ∀ q, q ≤ x → r.getV q = s.getV q

/-- A store is seen by the very next fetch (R63): two registers stored at `PC` and `PC + 1` are the next word. -/
def Obligations.StoreIsFetchedNext : Prop :=
  ∀ (x r q : Reg) (s : State), s.i.toNat + x.val ≤ 4095 → q ≤ x → q.val = r.val + 1 →
    s.pc.toNat = s.i.toNat + r.val →
    ∃ t, exec (.storeRegs x) s = .next t ∧ t.fetchWord.toNat = (s.getV r).toNat * 256 + (s.getV q).toNat

/-! ### Display -/

/-- `CLS` (R200): every cell 0 and nothing else. The number of the encoding is the spec's D15 (log 9). -/
def Obligations.ClearScreen : Prop :=
  encode .cls = 0x00E0 ∧
    ∀ s : State, ∃ t, exec .cls s = .next t ∧ (∀ k, t.cell k = 0) ∧ OnlyChanges (fun p => ∃ k, p = .cell k) s t

/-- `DRW Vx, Vy, N` (R201, R203): the cells under the sprite's set bits flip, the others stay, and `VF` is 1 exactly
when one of them was on. The position is that of the registers before `VF` is cleared, and bit 7 is the leftmost: the
spec's D13 (log 17). -/
def Obligations.DrawSprite : Prop :=
  ∀ (x y : Reg) (n : Nibble) (s : State), s.i.toNat + n.toNat ≤ 4096 ∨ n = 0 →
    ∃ t, exec (.drw x y n) s = .next t ∧
      (∀ k, s.underSprite (s.getV x) (s.getV y) n.toNat k → t.cell k = s.cell k ^^^ 1) ∧
      (∀ k, ¬ s.underSprite (s.getV x) (s.getV y) n.toNat k → t.cell k = s.cell k) ∧
      ((∃ k, s.underSprite (s.getV x) (s.getV y) n.toNat k ∧ s.cell k = 1) → t.getV VF = 1) ∧
      ((¬ ∃ k, s.underSprite (s.getV x) (s.getV y) n.toNat k ∧ s.cell k = 1) → t.getV VF = 0) ∧
      OnlyChanges (fun p => p = .v VF ∨ ∃ k, p = .cell k) s t

/-- `DRW` past address 4095 faults before `VF` or any cell is written (R201, R60; the spec's D4, log 14). -/
def Obligations.DrawPastMemoryFaults : Prop :=
  ∀ (x y : Reg) (n : Nibble) (s : State), n ≠ 0 → s.i.toNat + n.toNat > 4096 →
    ∃ t, exec (.drw x y n) s = .next t ∧
      t.fault = some ⟨.memoryBoundsFault, some (encode (.drw x y n)), s.pc - 2⟩ ∧
      OnlyChanges (fun p => p = .fault) s t

/-- Drawing the same sprite twice restores the display, and the second draw reports a collision if some set bit found
its cell off the first time (R201). -/
def Obligations.DrawTwiceRestores : Prop :=
  ∀ (x y : Reg) (n : Nibble) (s : State), x ≠ VF → y ≠ VF → s.i.toNat + n.toNat ≤ 4096 →
    ∃ t u, exec (.drw x y n) s = .next t ∧ exec (.drw x y n) t = .next u ∧ (∀ k, u.cell k = s.cell k) ∧
      ((∃ k, s.underSprite (s.getV x) (s.getV y) n.toNat k ∧ s.cell k = 0) → u.getV VF = 1)

/-! ### Keypad and timer instructions -/

/-- `SKP Vx` and `SKNP Vx` (R220, R221): for every answer of the Input Provider, a free value (log 4); a value above 15
faults, the spec's D11 (log 16). -/
def Obligations.KeySkips : Prop :=
  ∀ (x : Reg) (s : State),
    (∀ k : Key, (s.getV x).toNat = k.val →
      (∃ t, exec (.skp x) s = .next t ∧
        t.pc.toNat = (if s.drawKeyPressed k then (s.pc.toNat + 2) % 65536 else s.pc.toNat) ∧
        OnlyChanges (fun p => p = .pc) s t) ∧
      ∃ t, exec (.sknp x) s = .next t ∧
        t.pc.toNat = (if s.drawKeyPressed k then s.pc.toNat else (s.pc.toNat + 2) % 65536) ∧
        OnlyChanges (fun p => p = .pc) s t) ∧
    ((s.getV x).toNat > 15 → ∀ i, i = Instr.skp x ∨ i = Instr.sknp x →
      ∃ t, exec i s = .next t ∧ t.fault = some ⟨.keyIndexFault, some (encode i), s.pc - 2⟩ ∧
        t.faultDetail = some (.keyValue (s.getV x)) ∧ OnlyChanges (fun p => p = .fault) s t)

/-- `LD Vx, K` (R223): no event, and the wait is recorded and `PC` goes back; an event, and the register takes the key
and the wait is over. It holds for every answer of `KeyEvent()`, a free value, at every execution, the first included:
the spec's D12 (log 4). -/
def Obligations.WaitForKey : Prop :=
  ∀ (x : Reg) (s : State),
    ∃ t, exec (.ldVxK x) s = .next t ∧
      match s.drawKeyEvent with
      | none => t.wait = some x ∧ t.pc = s.pc - 2 ∧ OnlyChanges (fun p => p = .wait ∨ p = .pc) s t
      | some k => (t.getV x).toNat = k.val ∧ t.wait = none ∧ OnlyChanges (fun p => p = .wait ∨ p = .v x) s t

/-- A step at an FX0A word: with no event `PC` stays at the instruction and only the wait is recorded; with an event
`PC` moves past it (R115, R223, vector A10; D12, log 4). -/
def Obligations.WaitHoldsTheProgramCounter : Prop :=
  ∀ (x : Reg) (s : State), s.fault = none → s.pc.toNat ≤ 0x0FFE → s.pc.toNat % 2 = 0 →
    s.fetchWord = encode (.ldVxK x) →
    ∃ t, step s = .next t ∧
      match Config.keyEvent (s.stepNo + 1) with
      | none =>
        t.pc = s.pc ∧ t.wait = some x ∧
          OnlyChanges (fun p => p = .wait ∨ p = .dt ∨ p = .st ∨ p = .stepNo) s t
      | some k =>
        t.pc = s.pc + 2 ∧ t.wait = none ∧ (t.getV x).toNat = k.val ∧
          OnlyChanges (fun p => p = .wait ∨ p = .pc ∨ p = .v x ∨ p = .dt ∨ p = .st ∨ p = .stepNo) s t

/-- `LD Vx, DT`, `LD DT, Vx` and `LD ST, Vx` (R222, R224, R225); the sound is on for exactly `V[X]` ticks after
FX18. The numbers of the encodings are the spec's D15 (log 9). -/
def Obligations.TimerTransfers : Prop :=
  ∀ (x : Reg) (s : State),
    (encode (.ldVxDt x) &&& 0xF0FF = 0xF007 ∧ encode (.ldDtVx x) &&& 0xF0FF = 0xF015 ∧
      encode (.ldStVx x) &&& 0xF0FF = 0xF018 ∧
      ∀ i ∈ [Instr.ldVxDt x, .ldDtVx x, .ldStVx x], opX (encode i) = x) ∧
    (∃ t, exec (.ldVxDt x) s = .next t ∧ t.getV x = s.dt ∧ OnlyChanges (fun p => p = .v x) s t) ∧
    (∃ t, exec (.ldDtVx x) s = .next t ∧ t.dt = s.getV x ∧ OnlyChanges (fun p => p = .dt) s t) ∧
    ∃ t, exec (.ldStVx x) s = .next t ∧ t.st = s.getV x ∧ OnlyChanges (fun p => p = .st) s t ∧
      ∀ n, (State.ticks n t).soundOn = true ↔ n < (s.getV x).toNat

end
end

