-- ==== Sys2Proof/Laws/Decode.lean ====
section
/-! SUPPORT. The fields of a word put together from fields, and a word put together from its own fields. -/

namespace Sys2Proof

@[simp] theorem regBits_toNat (r : Reg) : (regBits r).toNat = r.val := by
  have := r.isLt
  simp [regBits]

/-- A register index read from a field is the field. -/
theorem regBits_mk (b : Nibble) (h : b.toNat < 16) : regBits ⟨b.toNat, h⟩ = b := by
  apply BitVec.eq_of_toNat_eq
  simp

section toNat

/-- The value of a word of a group and a 12-bit literal. -/
theorem toNat_group_addr (g : Nibble) (a : Addr) : ((g ++ a : Word)).toNat = g.toNat * 4096 + a.toNat := by
  have h := a.isLt
  rw [BitVec.toNat_append, ← Nat.shiftLeft_add_eq_or_of_lt h, Nat.shiftLeft_eq]

theorem toNat_group_reg_byte (g x : Nibble) (b : Byte) :
    ((g ++ x ++ b : Word)).toNat = g.toNat * 4096 + x.toNat * 256 + b.toNat := by
  have hb := b.isLt
  have hx := x.isLt
  rw [BitVec.toNat_append, BitVec.toNat_append, ← Nat.shiftLeft_add_eq_or_of_lt hb, ← Nat.shiftLeft_add_eq_or_of_lt hx,
    Nat.shiftLeft_eq, Nat.shiftLeft_eq]
  omega

theorem toNat_group_reg_reg_nibble (g x y n : Nibble) :
    ((g ++ x ++ y ++ n : Word)).toNat = g.toNat * 4096 + x.toNat * 256 + y.toNat * 16 + n.toNat := by
  have hn := n.isLt
  have hy := y.isLt
  have hx := x.isLt
  rw [BitVec.toNat_append, BitVec.toNat_append, BitVec.toNat_append, ← Nat.shiftLeft_add_eq_or_of_lt hn,
    ← Nat.shiftLeft_add_eq_or_of_lt hy, ← Nat.shiftLeft_add_eq_or_of_lt hx,
    Nat.shiftLeft_eq, Nat.shiftLeft_eq, Nat.shiftLeft_eq]
  omega

theorem opG_toNat (op : Word) : (opG op).toNat = op.toNat / 4096 := by
  have := op.isLt
  simp only [opG, BitVec.extractLsb'_toNat, Nat.shiftRight_eq_div_pow]
  omega

theorem opX_val (op : Word) : (opX op).val = op.toNat / 256 % 16 := by
  simp [opX, BitVec.extractLsb'_toNat, Nat.shiftRight_eq_div_pow]

theorem opY_val (op : Word) : (opY op).val = op.toNat / 16 % 16 := by
  simp [opY, BitVec.extractLsb'_toNat, Nat.shiftRight_eq_div_pow]

theorem opN_toNat (op : Word) : (opN op).toNat = op.toNat % 16 := by
  simp [opN, BitVec.extractLsb'_toNat]

theorem opNN_toNat (op : Word) : (opNN op).toNat = op.toNat % 256 := by
  simp [opNN, BitVec.extractLsb'_toNat]

theorem opNNN_toNat (op : Word) : (opNNN op).toNat = op.toNat % 4096 := by
  simp [opNNN, BitVec.extractLsb'_toNat]

end toNat

section fields

variable (g x y n : Nibble) (b : Byte) (a : Addr) (r r' : Reg)

@[simp] theorem opG_group_addr : opG (g ++ a) = g := by
  have := a.isLt
  apply BitVec.eq_of_toNat_eq
  rw [opG_toNat, toNat_group_addr]
  omega

@[simp] theorem opNNN_group_addr : opNNN (g ++ a) = a := by
  have := a.isLt
  apply BitVec.eq_of_toNat_eq
  rw [opNNN_toNat, toNat_group_addr]
  omega

@[simp] theorem opG_group_reg_byte : opG (g ++ x ++ b) = g := by
  have := x.isLt
  have := b.isLt
  apply BitVec.eq_of_toNat_eq
  rw [opG_toNat, toNat_group_reg_byte]
  omega

@[simp] theorem opX_group_reg_byte : opX (g ++ regBits r ++ b) = r := by
  have := r.isLt
  have := b.isLt
  apply Fin.ext
  rw [opX_val, toNat_group_reg_byte, regBits_toNat]
  omega

@[simp] theorem opNN_group_reg_byte : opNN (g ++ x ++ b) = b := by
  have := b.isLt
  apply BitVec.eq_of_toNat_eq
  rw [opNN_toNat, toNat_group_reg_byte]
  omega

@[simp] theorem opG_group_reg_reg : opG (g ++ x ++ y ++ n) = g := by
  have := x.isLt
  have := y.isLt
  have := n.isLt
  apply BitVec.eq_of_toNat_eq
  rw [opG_toNat, toNat_group_reg_reg_nibble]
  omega

@[simp] theorem opX_group_reg_reg : opX (g ++ regBits r ++ y ++ n) = r := by
  have := r.isLt
  have := y.isLt
  have := n.isLt
  apply Fin.ext
  rw [opX_val, toNat_group_reg_reg_nibble, regBits_toNat]
  omega

@[simp] theorem opY_group_reg_reg : opY (g ++ x ++ regBits r ++ n) = r := by
  have := x.isLt
  have := r.isLt
  have := n.isLt
  apply Fin.ext
  rw [opY_val, toNat_group_reg_reg_nibble, regBits_toNat]
  omega

@[simp] theorem opN_group_reg_reg : opN (g ++ x ++ y ++ n) = n := by
  have := n.isLt
  apply BitVec.eq_of_toNat_eq
  rw [opN_toNat, toNat_group_reg_reg_nibble]
  omega

end fields

section whole

/-- A word is its group and its 12-bit literal. -/
theorem group_addr_eq (op : Word) : (opG op ++ opNNN op : Word) = op := by
  apply BitVec.eq_of_toNat_eq
  rw [toNat_group_addr, opG_toNat, opNNN_toNat]
  omega

/-- A word is its group, its `X` and its low byte. -/
theorem group_reg_byte_eq (op : Word) : (opG op ++ regBits (opX op) ++ opNN op : Word) = op := by
  apply BitVec.eq_of_toNat_eq
  rw [toNat_group_reg_byte, regBits_toNat, opG_toNat, opX_val, opNN_toNat]
  omega

/-- A word is its group, its `X`, its `Y` and its low nibble. -/
theorem group_reg_reg_eq (op : Word) : (opG op ++ regBits (opX op) ++ regBits (opY op) ++ opN op : Word) = op := by
  apply BitVec.eq_of_toNat_eq
  rw [toNat_group_reg_reg_nibble, regBits_toNat, regBits_toNat, opG_toNat, opX_val, opY_val, opN_toNat]
  omega

/-- A word is its two bytes (R55). -/
theorem joinBytes_high_low (op : Word) : joinBytes (highByte op) (lowByte op) = op := by
  have := op.isLt
  have hlo : (lowByte op).toNat < 2 ^ 8 := (lowByte op).isLt
  apply BitVec.eq_of_toNat_eq
  rw [joinBytes, BitVec.toNat_append, ← Nat.shiftLeft_add_eq_or_of_lt hlo, Nat.shiftLeft_eq]
  simp only [highByte, lowByte, BitVec.extractLsb'_toNat, Nat.shiftRight_eq_div_pow]
  omega

/-- The value of a word joined from two bytes: `Mem[a] * 256 + Mem[a + 1]` (R55, R112). -/
theorem joinBytes_toNat (hi lo : Byte) : (joinBytes hi lo).toNat = hi.toNat * 256 + lo.toNat := by
  have hlo := lo.isLt
  rw [joinBytes, BitVec.toNat_append, ← Nat.shiftLeft_add_eq_or_of_lt hlo, Nat.shiftLeft_eq]

end whole

/-- Everything the byte decoder can answer on two bytes or more (R87: a word of no row is reported by its value). -/
theorem decodeBytes_cons (hi lo : Byte) (rest : List Byte) :
    (∃ i, decode (joinBytes hi lo) = some i ∧ decodeBytes (hi :: lo :: rest) = .ok (i, rest)) ∨
      (decode (joinBytes hi lo) = none ∧ decodeBytes (hi :: lo :: rest) = .error (.unknownOpcode (joinBytes hi lo))) := by
  cases h : decode (joinBytes hi lo) with
  | none => exact .inr ⟨rfl, by simp only [decodeBytes, h]⟩
  | some i => exact .inl ⟨i, rfl, by simp only [decodeBytes, h]⟩

end Sys2Proof
end

