-- ==== Sys2Proof/Laws/State.lean ====
section
/-! SUPPORT. One lemma per field per update of the state, each true by unfolding once, so that no proof unfolds a
record update; and the accessors through the updates that do not concern them. -/

namespace Sys2Proof.Machine

variable (s : State)


/-! ### `setV` -/

@[simp] theorem State.setV_mem (r : Reg) (b : Byte) : (s.setV r b).mem = s.mem := rfl
@[simp] theorem State.setV_v (r : Reg) (b : Byte) : (s.setV r b).v = s.v.set r b := rfl
@[simp] theorem State.setV_i (r : Reg) (b : Byte) : (s.setV r b).i = s.i := rfl
@[simp] theorem State.setV_pc (r : Reg) (b : Byte) : (s.setV r b).pc = s.pc := rfl
@[simp] theorem State.setV_stack (r : Reg) (b : Byte) : (s.setV r b).stack = s.stack := rfl
@[simp] theorem State.setV_disp (r : Reg) (b : Byte) : (s.setV r b).disp = s.disp := rfl
@[simp] theorem State.setV_dt (r : Reg) (b : Byte) : (s.setV r b).dt = s.dt := rfl
@[simp] theorem State.setV_st (r : Reg) (b : Byte) : (s.setV r b).st = s.st := rfl
@[simp] theorem State.setV_quirkShift (r : Reg) (b : Byte) : (s.setV r b).quirkShift = s.quirkShift := rfl
@[simp] theorem State.setV_quirkJump (r : Reg) (b : Byte) : (s.setV r b).quirkJump = s.quirkJump := rfl
@[simp] theorem State.setV_quirkIndex (r : Reg) (b : Byte) : (s.setV r b).quirkIndex = s.quirkIndex := rfl
@[simp] theorem State.setV_stackDepth (r : Reg) (b : Byte) : (s.setV r b).stackDepth = s.stackDepth := rfl
@[simp] theorem State.setV_wait (r : Reg) (b : Byte) : (s.setV r b).wait = s.wait := rfl
@[simp] theorem State.setV_fault (r : Reg) (b : Byte) : (s.setV r b).fault = s.fault := rfl
@[simp] theorem State.setV_stepNo (r : Reg) (b : Byte) : (s.setV r b).stepNo = s.stepNo := rfl

/-! ### `setI` -/

@[simp] theorem State.setI_mem (w : Word) : (s.setI w).mem = s.mem := rfl
@[simp] theorem State.setI_v (w : Word) : (s.setI w).v = s.v := rfl
@[simp] theorem State.setI_i (w : Word) : (s.setI w).i = w := rfl
@[simp] theorem State.setI_pc (w : Word) : (s.setI w).pc = s.pc := rfl
@[simp] theorem State.setI_stack (w : Word) : (s.setI w).stack = s.stack := rfl
@[simp] theorem State.setI_disp (w : Word) : (s.setI w).disp = s.disp := rfl
@[simp] theorem State.setI_dt (w : Word) : (s.setI w).dt = s.dt := rfl
@[simp] theorem State.setI_st (w : Word) : (s.setI w).st = s.st := rfl
@[simp] theorem State.setI_quirkShift (w : Word) : (s.setI w).quirkShift = s.quirkShift := rfl
@[simp] theorem State.setI_quirkJump (w : Word) : (s.setI w).quirkJump = s.quirkJump := rfl
@[simp] theorem State.setI_quirkIndex (w : Word) : (s.setI w).quirkIndex = s.quirkIndex := rfl
@[simp] theorem State.setI_stackDepth (w : Word) : (s.setI w).stackDepth = s.stackDepth := rfl
@[simp] theorem State.setI_wait (w : Word) : (s.setI w).wait = s.wait := rfl
@[simp] theorem State.setI_fault (w : Word) : (s.setI w).fault = s.fault := rfl
@[simp] theorem State.setI_stepNo (w : Word) : (s.setI w).stepNo = s.stepNo := rfl
@[simp] theorem State.getV_setI (w : Word) (r : Reg) : (s.setI w).getV r = s.getV r := rfl
@[simp] theorem State.readByte_setI (w : Word) (a : Nat) : (s.setI w).readByte a = s.readByte a := rfl
@[simp] theorem State.cell_setI (w : Word) (k : CellIndex) : (s.setI w).cell k = s.cell k := rfl
@[simp] theorem State.sp_setI (w : Word) : (s.setI w).sp = s.sp := rfl

/-! ### `setPc` -/

@[simp] theorem State.setPc_mem (w : Word) : (s.setPc w).mem = s.mem := rfl
@[simp] theorem State.setPc_v (w : Word) : (s.setPc w).v = s.v := rfl
@[simp] theorem State.setPc_i (w : Word) : (s.setPc w).i = s.i := rfl
@[simp] theorem State.setPc_pc (w : Word) : (s.setPc w).pc = w := rfl
@[simp] theorem State.setPc_stack (w : Word) : (s.setPc w).stack = s.stack := rfl
@[simp] theorem State.setPc_disp (w : Word) : (s.setPc w).disp = s.disp := rfl
@[simp] theorem State.setPc_dt (w : Word) : (s.setPc w).dt = s.dt := rfl
@[simp] theorem State.setPc_st (w : Word) : (s.setPc w).st = s.st := rfl
@[simp] theorem State.setPc_quirkShift (w : Word) : (s.setPc w).quirkShift = s.quirkShift := rfl
@[simp] theorem State.setPc_quirkJump (w : Word) : (s.setPc w).quirkJump = s.quirkJump := rfl
@[simp] theorem State.setPc_quirkIndex (w : Word) : (s.setPc w).quirkIndex = s.quirkIndex := rfl
@[simp] theorem State.setPc_stackDepth (w : Word) : (s.setPc w).stackDepth = s.stackDepth := rfl
@[simp] theorem State.setPc_wait (w : Word) : (s.setPc w).wait = s.wait := rfl
@[simp] theorem State.setPc_fault (w : Word) : (s.setPc w).fault = s.fault := rfl
@[simp] theorem State.setPc_stepNo (w : Word) : (s.setPc w).stepNo = s.stepNo := rfl
@[simp] theorem State.getV_setPc (w : Word) (r : Reg) : (s.setPc w).getV r = s.getV r := rfl
@[simp] theorem State.readByte_setPc (w : Word) (a : Nat) : (s.setPc w).readByte a = s.readByte a := rfl
@[simp] theorem State.cell_setPc (w : Word) (k : CellIndex) : (s.setPc w).cell k = s.cell k := rfl
@[simp] theorem State.sp_setPc (w : Word) : (s.setPc w).sp = s.sp := rfl

/-! ### `setStack` -/

@[simp] theorem State.setStack_mem (l : List Word) : (s.setStack l).mem = s.mem := rfl
@[simp] theorem State.setStack_v (l : List Word) : (s.setStack l).v = s.v := rfl
@[simp] theorem State.setStack_i (l : List Word) : (s.setStack l).i = s.i := rfl
@[simp] theorem State.setStack_pc (l : List Word) : (s.setStack l).pc = s.pc := rfl
@[simp] theorem State.setStack_stack (l : List Word) : (s.setStack l).stack = l := rfl
@[simp] theorem State.setStack_disp (l : List Word) : (s.setStack l).disp = s.disp := rfl
@[simp] theorem State.setStack_dt (l : List Word) : (s.setStack l).dt = s.dt := rfl
@[simp] theorem State.setStack_st (l : List Word) : (s.setStack l).st = s.st := rfl
@[simp] theorem State.setStack_quirkShift (l : List Word) : (s.setStack l).quirkShift = s.quirkShift := rfl
@[simp] theorem State.setStack_quirkJump (l : List Word) : (s.setStack l).quirkJump = s.quirkJump := rfl
@[simp] theorem State.setStack_quirkIndex (l : List Word) : (s.setStack l).quirkIndex = s.quirkIndex := rfl
@[simp] theorem State.setStack_stackDepth (l : List Word) : (s.setStack l).stackDepth = s.stackDepth := rfl
@[simp] theorem State.setStack_wait (l : List Word) : (s.setStack l).wait = s.wait := rfl
@[simp] theorem State.setStack_fault (l : List Word) : (s.setStack l).fault = s.fault := rfl
@[simp] theorem State.setStack_stepNo (l : List Word) : (s.setStack l).stepNo = s.stepNo := rfl
@[simp] theorem State.getV_setStack (l : List Word) (r : Reg) : (s.setStack l).getV r = s.getV r := rfl
@[simp] theorem State.readByte_setStack (l : List Word) (a : Nat) : (s.setStack l).readByte a = s.readByte a := rfl
@[simp] theorem State.cell_setStack (l : List Word) (k : CellIndex) : (s.setStack l).cell k = s.cell k := rfl

/-! ### `setDisp` -/

@[simp] theorem State.setDisp_mem (d : Vector Row 32) : (s.setDisp d).mem = s.mem := rfl
@[simp] theorem State.setDisp_v (d : Vector Row 32) : (s.setDisp d).v = s.v := rfl
@[simp] theorem State.setDisp_i (d : Vector Row 32) : (s.setDisp d).i = s.i := rfl
@[simp] theorem State.setDisp_pc (d : Vector Row 32) : (s.setDisp d).pc = s.pc := rfl
@[simp] theorem State.setDisp_stack (d : Vector Row 32) : (s.setDisp d).stack = s.stack := rfl
@[simp] theorem State.setDisp_disp (d : Vector Row 32) : (s.setDisp d).disp = d := rfl
@[simp] theorem State.setDisp_dt (d : Vector Row 32) : (s.setDisp d).dt = s.dt := rfl
@[simp] theorem State.setDisp_st (d : Vector Row 32) : (s.setDisp d).st = s.st := rfl
@[simp] theorem State.setDisp_quirkShift (d : Vector Row 32) : (s.setDisp d).quirkShift = s.quirkShift := rfl
@[simp] theorem State.setDisp_quirkJump (d : Vector Row 32) : (s.setDisp d).quirkJump = s.quirkJump := rfl
@[simp] theorem State.setDisp_quirkIndex (d : Vector Row 32) : (s.setDisp d).quirkIndex = s.quirkIndex := rfl
@[simp] theorem State.setDisp_stackDepth (d : Vector Row 32) : (s.setDisp d).stackDepth = s.stackDepth := rfl
@[simp] theorem State.setDisp_wait (d : Vector Row 32) : (s.setDisp d).wait = s.wait := rfl
@[simp] theorem State.setDisp_fault (d : Vector Row 32) : (s.setDisp d).fault = s.fault := rfl
@[simp] theorem State.setDisp_stepNo (d : Vector Row 32) : (s.setDisp d).stepNo = s.stepNo := rfl
@[simp] theorem State.getV_setDisp (d : Vector Row 32) (r : Reg) : (s.setDisp d).getV r = s.getV r := rfl
@[simp] theorem State.readByte_setDisp (d : Vector Row 32) (a : Nat) : (s.setDisp d).readByte a = s.readByte a := rfl
@[simp] theorem State.sp_setDisp (d : Vector Row 32) : (s.setDisp d).sp = s.sp := rfl

/-! ### `setMem` -/

@[simp] theorem State.setMem_mem (m : Memory) : (s.setMem m).mem = m := rfl
@[simp] theorem State.setMem_v (m : Memory) : (s.setMem m).v = s.v := rfl
@[simp] theorem State.setMem_i (m : Memory) : (s.setMem m).i = s.i := rfl
@[simp] theorem State.setMem_pc (m : Memory) : (s.setMem m).pc = s.pc := rfl
@[simp] theorem State.setMem_stack (m : Memory) : (s.setMem m).stack = s.stack := rfl
@[simp] theorem State.setMem_disp (m : Memory) : (s.setMem m).disp = s.disp := rfl
@[simp] theorem State.setMem_dt (m : Memory) : (s.setMem m).dt = s.dt := rfl
@[simp] theorem State.setMem_st (m : Memory) : (s.setMem m).st = s.st := rfl
@[simp] theorem State.setMem_quirkShift (m : Memory) : (s.setMem m).quirkShift = s.quirkShift := rfl
@[simp] theorem State.setMem_quirkJump (m : Memory) : (s.setMem m).quirkJump = s.quirkJump := rfl
@[simp] theorem State.setMem_quirkIndex (m : Memory) : (s.setMem m).quirkIndex = s.quirkIndex := rfl
@[simp] theorem State.setMem_stackDepth (m : Memory) : (s.setMem m).stackDepth = s.stackDepth := rfl
@[simp] theorem State.setMem_wait (m : Memory) : (s.setMem m).wait = s.wait := rfl
@[simp] theorem State.setMem_fault (m : Memory) : (s.setMem m).fault = s.fault := rfl
@[simp] theorem State.setMem_stepNo (m : Memory) : (s.setMem m).stepNo = s.stepNo := rfl
@[simp] theorem State.getV_setMem (m : Memory) (r : Reg) : (s.setMem m).getV r = s.getV r := rfl
@[simp] theorem State.cell_setMem (m : Memory) (k : CellIndex) : (s.setMem m).cell k = s.cell k := rfl
@[simp] theorem State.sp_setMem (m : Memory) : (s.setMem m).sp = s.sp := rfl

/-! ### `setDt` -/

@[simp] theorem State.setDt_mem (b : Byte) : (s.setDt b).mem = s.mem := rfl
@[simp] theorem State.setDt_v (b : Byte) : (s.setDt b).v = s.v := rfl
@[simp] theorem State.setDt_i (b : Byte) : (s.setDt b).i = s.i := rfl
@[simp] theorem State.setDt_pc (b : Byte) : (s.setDt b).pc = s.pc := rfl
@[simp] theorem State.setDt_stack (b : Byte) : (s.setDt b).stack = s.stack := rfl
@[simp] theorem State.setDt_disp (b : Byte) : (s.setDt b).disp = s.disp := rfl
@[simp] theorem State.setDt_dt (b : Byte) : (s.setDt b).dt = b := rfl
@[simp] theorem State.setDt_st (b : Byte) : (s.setDt b).st = s.st := rfl
@[simp] theorem State.setDt_quirkShift (b : Byte) : (s.setDt b).quirkShift = s.quirkShift := rfl
@[simp] theorem State.setDt_quirkJump (b : Byte) : (s.setDt b).quirkJump = s.quirkJump := rfl
@[simp] theorem State.setDt_quirkIndex (b : Byte) : (s.setDt b).quirkIndex = s.quirkIndex := rfl
@[simp] theorem State.setDt_stackDepth (b : Byte) : (s.setDt b).stackDepth = s.stackDepth := rfl
@[simp] theorem State.setDt_wait (b : Byte) : (s.setDt b).wait = s.wait := rfl
@[simp] theorem State.setDt_fault (b : Byte) : (s.setDt b).fault = s.fault := rfl
@[simp] theorem State.setDt_stepNo (b : Byte) : (s.setDt b).stepNo = s.stepNo := rfl
@[simp] theorem State.getV_setDt (b : Byte) (r : Reg) : (s.setDt b).getV r = s.getV r := rfl
@[simp] theorem State.readByte_setDt (b : Byte) (a : Nat) : (s.setDt b).readByte a = s.readByte a := rfl
@[simp] theorem State.cell_setDt (b : Byte) (k : CellIndex) : (s.setDt b).cell k = s.cell k := rfl
@[simp] theorem State.sp_setDt (b : Byte) : (s.setDt b).sp = s.sp := rfl

/-! ### `setSt` -/

@[simp] theorem State.setSt_mem (b : Byte) : (s.setSt b).mem = s.mem := rfl
@[simp] theorem State.setSt_v (b : Byte) : (s.setSt b).v = s.v := rfl
@[simp] theorem State.setSt_i (b : Byte) : (s.setSt b).i = s.i := rfl
@[simp] theorem State.setSt_pc (b : Byte) : (s.setSt b).pc = s.pc := rfl
@[simp] theorem State.setSt_stack (b : Byte) : (s.setSt b).stack = s.stack := rfl
@[simp] theorem State.setSt_disp (b : Byte) : (s.setSt b).disp = s.disp := rfl
@[simp] theorem State.setSt_dt (b : Byte) : (s.setSt b).dt = s.dt := rfl
@[simp] theorem State.setSt_st (b : Byte) : (s.setSt b).st = b := rfl
@[simp] theorem State.setSt_quirkShift (b : Byte) : (s.setSt b).quirkShift = s.quirkShift := rfl
@[simp] theorem State.setSt_quirkJump (b : Byte) : (s.setSt b).quirkJump = s.quirkJump := rfl
@[simp] theorem State.setSt_quirkIndex (b : Byte) : (s.setSt b).quirkIndex = s.quirkIndex := rfl
@[simp] theorem State.setSt_stackDepth (b : Byte) : (s.setSt b).stackDepth = s.stackDepth := rfl
@[simp] theorem State.setSt_wait (b : Byte) : (s.setSt b).wait = s.wait := rfl
@[simp] theorem State.setSt_fault (b : Byte) : (s.setSt b).fault = s.fault := rfl
@[simp] theorem State.setSt_stepNo (b : Byte) : (s.setSt b).stepNo = s.stepNo := rfl
@[simp] theorem State.getV_setSt (b : Byte) (r : Reg) : (s.setSt b).getV r = s.getV r := rfl
@[simp] theorem State.readByte_setSt (b : Byte) (a : Nat) : (s.setSt b).readByte a = s.readByte a := rfl
@[simp] theorem State.cell_setSt (b : Byte) (k : CellIndex) : (s.setSt b).cell k = s.cell k := rfl
@[simp] theorem State.sp_setSt (b : Byte) : (s.setSt b).sp = s.sp := rfl

/-! ### `setQuirkShift` -/

@[simp] theorem State.setQuirkShift_mem (q : Bool) : (s.setQuirkShift q).mem = s.mem := rfl
@[simp] theorem State.setQuirkShift_v (q : Bool) : (s.setQuirkShift q).v = s.v := rfl
@[simp] theorem State.setQuirkShift_i (q : Bool) : (s.setQuirkShift q).i = s.i := rfl
@[simp] theorem State.setQuirkShift_pc (q : Bool) : (s.setQuirkShift q).pc = s.pc := rfl
@[simp] theorem State.setQuirkShift_stack (q : Bool) : (s.setQuirkShift q).stack = s.stack := rfl
@[simp] theorem State.setQuirkShift_disp (q : Bool) : (s.setQuirkShift q).disp = s.disp := rfl
@[simp] theorem State.setQuirkShift_dt (q : Bool) : (s.setQuirkShift q).dt = s.dt := rfl
@[simp] theorem State.setQuirkShift_st (q : Bool) : (s.setQuirkShift q).st = s.st := rfl
@[simp] theorem State.setQuirkShift_quirkShift (q : Bool) : (s.setQuirkShift q).quirkShift = q := rfl
@[simp] theorem State.setQuirkShift_quirkJump (q : Bool) : (s.setQuirkShift q).quirkJump = s.quirkJump := rfl
@[simp] theorem State.setQuirkShift_quirkIndex (q : Bool) : (s.setQuirkShift q).quirkIndex = s.quirkIndex := rfl
@[simp] theorem State.setQuirkShift_stackDepth (q : Bool) : (s.setQuirkShift q).stackDepth = s.stackDepth := rfl
@[simp] theorem State.setQuirkShift_wait (q : Bool) : (s.setQuirkShift q).wait = s.wait := rfl
@[simp] theorem State.setQuirkShift_fault (q : Bool) : (s.setQuirkShift q).fault = s.fault := rfl
@[simp] theorem State.setQuirkShift_stepNo (q : Bool) : (s.setQuirkShift q).stepNo = s.stepNo := rfl
@[simp] theorem State.getV_setQuirkShift (q : Bool) (r : Reg) : (s.setQuirkShift q).getV r = s.getV r := rfl
@[simp] theorem State.readByte_setQuirkShift (q : Bool) (a : Nat) : (s.setQuirkShift q).readByte a = s.readByte a := rfl
@[simp] theorem State.cell_setQuirkShift (q : Bool) (k : CellIndex) : (s.setQuirkShift q).cell k = s.cell k := rfl
@[simp] theorem State.sp_setQuirkShift (q : Bool) : (s.setQuirkShift q).sp = s.sp := rfl

/-! ### `setQuirkJump` -/

@[simp] theorem State.setQuirkJump_mem (q : Bool) : (s.setQuirkJump q).mem = s.mem := rfl
@[simp] theorem State.setQuirkJump_v (q : Bool) : (s.setQuirkJump q).v = s.v := rfl
@[simp] theorem State.setQuirkJump_i (q : Bool) : (s.setQuirkJump q).i = s.i := rfl
@[simp] theorem State.setQuirkJump_pc (q : Bool) : (s.setQuirkJump q).pc = s.pc := rfl
@[simp] theorem State.setQuirkJump_stack (q : Bool) : (s.setQuirkJump q).stack = s.stack := rfl
@[simp] theorem State.setQuirkJump_disp (q : Bool) : (s.setQuirkJump q).disp = s.disp := rfl
@[simp] theorem State.setQuirkJump_dt (q : Bool) : (s.setQuirkJump q).dt = s.dt := rfl
@[simp] theorem State.setQuirkJump_st (q : Bool) : (s.setQuirkJump q).st = s.st := rfl
@[simp] theorem State.setQuirkJump_quirkShift (q : Bool) : (s.setQuirkJump q).quirkShift = s.quirkShift := rfl
@[simp] theorem State.setQuirkJump_quirkJump (q : Bool) : (s.setQuirkJump q).quirkJump = q := rfl
@[simp] theorem State.setQuirkJump_quirkIndex (q : Bool) : (s.setQuirkJump q).quirkIndex = s.quirkIndex := rfl
@[simp] theorem State.setQuirkJump_stackDepth (q : Bool) : (s.setQuirkJump q).stackDepth = s.stackDepth := rfl
@[simp] theorem State.setQuirkJump_wait (q : Bool) : (s.setQuirkJump q).wait = s.wait := rfl
@[simp] theorem State.setQuirkJump_fault (q : Bool) : (s.setQuirkJump q).fault = s.fault := rfl
@[simp] theorem State.setQuirkJump_stepNo (q : Bool) : (s.setQuirkJump q).stepNo = s.stepNo := rfl
@[simp] theorem State.getV_setQuirkJump (q : Bool) (r : Reg) : (s.setQuirkJump q).getV r = s.getV r := rfl
@[simp] theorem State.readByte_setQuirkJump (q : Bool) (a : Nat) : (s.setQuirkJump q).readByte a = s.readByte a := rfl
@[simp] theorem State.cell_setQuirkJump (q : Bool) (k : CellIndex) : (s.setQuirkJump q).cell k = s.cell k := rfl
@[simp] theorem State.sp_setQuirkJump (q : Bool) : (s.setQuirkJump q).sp = s.sp := rfl

/-! ### `setQuirkIndex` -/

@[simp] theorem State.setQuirkIndex_mem (q : Bool) : (s.setQuirkIndex q).mem = s.mem := rfl
@[simp] theorem State.setQuirkIndex_v (q : Bool) : (s.setQuirkIndex q).v = s.v := rfl
@[simp] theorem State.setQuirkIndex_i (q : Bool) : (s.setQuirkIndex q).i = s.i := rfl
@[simp] theorem State.setQuirkIndex_pc (q : Bool) : (s.setQuirkIndex q).pc = s.pc := rfl
@[simp] theorem State.setQuirkIndex_stack (q : Bool) : (s.setQuirkIndex q).stack = s.stack := rfl
@[simp] theorem State.setQuirkIndex_disp (q : Bool) : (s.setQuirkIndex q).disp = s.disp := rfl
@[simp] theorem State.setQuirkIndex_dt (q : Bool) : (s.setQuirkIndex q).dt = s.dt := rfl
@[simp] theorem State.setQuirkIndex_st (q : Bool) : (s.setQuirkIndex q).st = s.st := rfl
@[simp] theorem State.setQuirkIndex_quirkShift (q : Bool) : (s.setQuirkIndex q).quirkShift = s.quirkShift := rfl
@[simp] theorem State.setQuirkIndex_quirkJump (q : Bool) : (s.setQuirkIndex q).quirkJump = s.quirkJump := rfl
@[simp] theorem State.setQuirkIndex_quirkIndex (q : Bool) : (s.setQuirkIndex q).quirkIndex = q := rfl
@[simp] theorem State.setQuirkIndex_stackDepth (q : Bool) : (s.setQuirkIndex q).stackDepth = s.stackDepth := rfl
@[simp] theorem State.setQuirkIndex_wait (q : Bool) : (s.setQuirkIndex q).wait = s.wait := rfl
@[simp] theorem State.setQuirkIndex_fault (q : Bool) : (s.setQuirkIndex q).fault = s.fault := rfl
@[simp] theorem State.setQuirkIndex_stepNo (q : Bool) : (s.setQuirkIndex q).stepNo = s.stepNo := rfl
@[simp] theorem State.getV_setQuirkIndex (q : Bool) (r : Reg) : (s.setQuirkIndex q).getV r = s.getV r := rfl
@[simp] theorem State.readByte_setQuirkIndex (q : Bool) (a : Nat) : (s.setQuirkIndex q).readByte a = s.readByte a := rfl
@[simp] theorem State.cell_setQuirkIndex (q : Bool) (k : CellIndex) : (s.setQuirkIndex q).cell k = s.cell k := rfl
@[simp] theorem State.sp_setQuirkIndex (q : Bool) : (s.setQuirkIndex q).sp = s.sp := rfl

/-! ### `setStackDepth` -/

@[simp] theorem State.setStackDepth_mem (d : Option Nat) : (s.setStackDepth d).mem = s.mem := rfl
@[simp] theorem State.setStackDepth_v (d : Option Nat) : (s.setStackDepth d).v = s.v := rfl
@[simp] theorem State.setStackDepth_i (d : Option Nat) : (s.setStackDepth d).i = s.i := rfl
@[simp] theorem State.setStackDepth_pc (d : Option Nat) : (s.setStackDepth d).pc = s.pc := rfl
@[simp] theorem State.setStackDepth_stack (d : Option Nat) : (s.setStackDepth d).stack = s.stack := rfl
@[simp] theorem State.setStackDepth_disp (d : Option Nat) : (s.setStackDepth d).disp = s.disp := rfl
@[simp] theorem State.setStackDepth_dt (d : Option Nat) : (s.setStackDepth d).dt = s.dt := rfl
@[simp] theorem State.setStackDepth_st (d : Option Nat) : (s.setStackDepth d).st = s.st := rfl
@[simp] theorem State.setStackDepth_quirkShift (d : Option Nat) : (s.setStackDepth d).quirkShift = s.quirkShift := rfl
@[simp] theorem State.setStackDepth_quirkJump (d : Option Nat) : (s.setStackDepth d).quirkJump = s.quirkJump := rfl
@[simp] theorem State.setStackDepth_quirkIndex (d : Option Nat) : (s.setStackDepth d).quirkIndex = s.quirkIndex := rfl
@[simp] theorem State.setStackDepth_stackDepth (d : Option Nat) : (s.setStackDepth d).stackDepth = d := rfl
@[simp] theorem State.setStackDepth_wait (d : Option Nat) : (s.setStackDepth d).wait = s.wait := rfl
@[simp] theorem State.setStackDepth_fault (d : Option Nat) : (s.setStackDepth d).fault = s.fault := rfl
@[simp] theorem State.setStackDepth_stepNo (d : Option Nat) : (s.setStackDepth d).stepNo = s.stepNo := rfl
@[simp] theorem State.getV_setStackDepth (d : Option Nat) (r : Reg) : (s.setStackDepth d).getV r = s.getV r := rfl
@[simp] theorem State.readByte_setStackDepth (d : Option Nat) (a : Nat) : (s.setStackDepth d).readByte a = s.readByte a := rfl
@[simp] theorem State.cell_setStackDepth (d : Option Nat) (k : CellIndex) : (s.setStackDepth d).cell k = s.cell k := rfl
@[simp] theorem State.sp_setStackDepth (d : Option Nat) : (s.setStackDepth d).sp = s.sp := rfl

/-! ### `setWait` -/

@[simp] theorem State.setWait_mem (w : Option Reg) : (s.setWait w).mem = s.mem := rfl
@[simp] theorem State.setWait_v (w : Option Reg) : (s.setWait w).v = s.v := rfl
@[simp] theorem State.setWait_i (w : Option Reg) : (s.setWait w).i = s.i := rfl
@[simp] theorem State.setWait_pc (w : Option Reg) : (s.setWait w).pc = s.pc := rfl
@[simp] theorem State.setWait_stack (w : Option Reg) : (s.setWait w).stack = s.stack := rfl
@[simp] theorem State.setWait_disp (w : Option Reg) : (s.setWait w).disp = s.disp := rfl
@[simp] theorem State.setWait_dt (w : Option Reg) : (s.setWait w).dt = s.dt := rfl
@[simp] theorem State.setWait_st (w : Option Reg) : (s.setWait w).st = s.st := rfl
@[simp] theorem State.setWait_quirkShift (w : Option Reg) : (s.setWait w).quirkShift = s.quirkShift := rfl
@[simp] theorem State.setWait_quirkJump (w : Option Reg) : (s.setWait w).quirkJump = s.quirkJump := rfl
@[simp] theorem State.setWait_quirkIndex (w : Option Reg) : (s.setWait w).quirkIndex = s.quirkIndex := rfl
@[simp] theorem State.setWait_stackDepth (w : Option Reg) : (s.setWait w).stackDepth = s.stackDepth := rfl
@[simp] theorem State.setWait_wait (w : Option Reg) : (s.setWait w).wait = w := rfl
@[simp] theorem State.setWait_fault (w : Option Reg) : (s.setWait w).fault = s.fault := rfl
@[simp] theorem State.setWait_stepNo (w : Option Reg) : (s.setWait w).stepNo = s.stepNo := rfl
@[simp] theorem State.getV_setWait (w : Option Reg) (r : Reg) : (s.setWait w).getV r = s.getV r := rfl
@[simp] theorem State.readByte_setWait (w : Option Reg) (a : Nat) : (s.setWait w).readByte a = s.readByte a := rfl
@[simp] theorem State.cell_setWait (w : Option Reg) (k : CellIndex) : (s.setWait w).cell k = s.cell k := rfl
@[simp] theorem State.sp_setWait (w : Option Reg) : (s.setWait w).sp = s.sp := rfl

/-! ### `setFault` -/

@[simp] theorem State.setFault_mem (f : Option FaultRecord) : (s.setFault f).mem = s.mem := rfl
@[simp] theorem State.setFault_v (f : Option FaultRecord) : (s.setFault f).v = s.v := rfl
@[simp] theorem State.setFault_i (f : Option FaultRecord) : (s.setFault f).i = s.i := rfl
@[simp] theorem State.setFault_pc (f : Option FaultRecord) : (s.setFault f).pc = s.pc := rfl
@[simp] theorem State.setFault_stack (f : Option FaultRecord) : (s.setFault f).stack = s.stack := rfl
@[simp] theorem State.setFault_disp (f : Option FaultRecord) : (s.setFault f).disp = s.disp := rfl
@[simp] theorem State.setFault_dt (f : Option FaultRecord) : (s.setFault f).dt = s.dt := rfl
@[simp] theorem State.setFault_st (f : Option FaultRecord) : (s.setFault f).st = s.st := rfl
@[simp] theorem State.setFault_quirkShift (f : Option FaultRecord) : (s.setFault f).quirkShift = s.quirkShift := rfl
@[simp] theorem State.setFault_quirkJump (f : Option FaultRecord) : (s.setFault f).quirkJump = s.quirkJump := rfl
@[simp] theorem State.setFault_quirkIndex (f : Option FaultRecord) : (s.setFault f).quirkIndex = s.quirkIndex := rfl
@[simp] theorem State.setFault_stackDepth (f : Option FaultRecord) : (s.setFault f).stackDepth = s.stackDepth := rfl
@[simp] theorem State.setFault_wait (f : Option FaultRecord) : (s.setFault f).wait = s.wait := rfl
@[simp] theorem State.setFault_fault (f : Option FaultRecord) : (s.setFault f).fault = f := rfl
@[simp] theorem State.setFault_stepNo (f : Option FaultRecord) : (s.setFault f).stepNo = s.stepNo := rfl
@[simp] theorem State.getV_setFault (f : Option FaultRecord) (r : Reg) : (s.setFault f).getV r = s.getV r := rfl
@[simp] theorem State.readByte_setFault (f : Option FaultRecord) (a : Nat) : (s.setFault f).readByte a = s.readByte a := rfl
@[simp] theorem State.cell_setFault (f : Option FaultRecord) (k : CellIndex) : (s.setFault f).cell k = s.cell k := rfl
@[simp] theorem State.sp_setFault (f : Option FaultRecord) : (s.setFault f).sp = s.sp := rfl

/-! ### `setStepNo` -/

@[simp] theorem State.setStepNo_mem (n : Nat) : (s.setStepNo n).mem = s.mem := rfl
@[simp] theorem State.setStepNo_v (n : Nat) : (s.setStepNo n).v = s.v := rfl
@[simp] theorem State.setStepNo_i (n : Nat) : (s.setStepNo n).i = s.i := rfl
@[simp] theorem State.setStepNo_pc (n : Nat) : (s.setStepNo n).pc = s.pc := rfl
@[simp] theorem State.setStepNo_stack (n : Nat) : (s.setStepNo n).stack = s.stack := rfl
@[simp] theorem State.setStepNo_disp (n : Nat) : (s.setStepNo n).disp = s.disp := rfl
@[simp] theorem State.setStepNo_dt (n : Nat) : (s.setStepNo n).dt = s.dt := rfl
@[simp] theorem State.setStepNo_st (n : Nat) : (s.setStepNo n).st = s.st := rfl
@[simp] theorem State.setStepNo_quirkShift (n : Nat) : (s.setStepNo n).quirkShift = s.quirkShift := rfl
@[simp] theorem State.setStepNo_quirkJump (n : Nat) : (s.setStepNo n).quirkJump = s.quirkJump := rfl
@[simp] theorem State.setStepNo_quirkIndex (n : Nat) : (s.setStepNo n).quirkIndex = s.quirkIndex := rfl
@[simp] theorem State.setStepNo_stackDepth (n : Nat) : (s.setStepNo n).stackDepth = s.stackDepth := rfl
@[simp] theorem State.setStepNo_wait (n : Nat) : (s.setStepNo n).wait = s.wait := rfl
@[simp] theorem State.setStepNo_fault (n : Nat) : (s.setStepNo n).fault = s.fault := rfl
@[simp] theorem State.setStepNo_stepNo (n : Nat) : (s.setStepNo n).stepNo = n := rfl
@[simp] theorem State.getV_setStepNo (n : Nat) (r : Reg) : (s.setStepNo n).getV r = s.getV r := rfl
@[simp] theorem State.readByte_setStepNo (n : Nat) (a : Nat) : (s.setStepNo n).readByte a = s.readByte a := rfl
@[simp] theorem State.cell_setStepNo (n : Nat) (k : CellIndex) : (s.setStepNo n).cell k = s.cell k := rfl
@[simp] theorem State.sp_setStepNo (n : Nat) : (s.setStepNo n).sp = s.sp := rfl

/-! ### accessors through `setV`, `writeByte`, `flipCell` -/

@[simp] theorem State.readByte_setV (r : Reg) (b : Byte) (a : Nat) : (s.setV r b).readByte a = s.readByte a := rfl
@[simp] theorem State.cell_setV (r : Reg) (b : Byte) (k : CellIndex) : (s.setV r b).cell k = s.cell k := rfl
@[simp] theorem State.sp_setV (r : Reg) (b : Byte) : (s.setV r b).sp = s.sp := rfl
@[simp] theorem State.writeByte_mem (a : Nat) (b : Byte) : (s.writeByte a b).mem = Memory.write s.mem a b := rfl
@[simp] theorem State.writeByte_v (a : Nat) (b : Byte) : (s.writeByte a b).v = s.v := rfl
@[simp] theorem State.writeByte_i (a : Nat) (b : Byte) : (s.writeByte a b).i = s.i := rfl
@[simp] theorem State.writeByte_pc (a : Nat) (b : Byte) : (s.writeByte a b).pc = s.pc := rfl
@[simp] theorem State.writeByte_stack (a : Nat) (b : Byte) : (s.writeByte a b).stack = s.stack := rfl
@[simp] theorem State.writeByte_disp (a : Nat) (b : Byte) : (s.writeByte a b).disp = s.disp := rfl
@[simp] theorem State.writeByte_dt (a : Nat) (b : Byte) : (s.writeByte a b).dt = s.dt := rfl
@[simp] theorem State.writeByte_st (a : Nat) (b : Byte) : (s.writeByte a b).st = s.st := rfl
@[simp] theorem State.writeByte_quirkShift (a : Nat) (b : Byte) : (s.writeByte a b).quirkShift = s.quirkShift := rfl
@[simp] theorem State.writeByte_quirkJump (a : Nat) (b : Byte) : (s.writeByte a b).quirkJump = s.quirkJump := rfl
@[simp] theorem State.writeByte_quirkIndex (a : Nat) (b : Byte) : (s.writeByte a b).quirkIndex = s.quirkIndex := rfl
@[simp] theorem State.writeByte_stackDepth (a : Nat) (b : Byte) : (s.writeByte a b).stackDepth = s.stackDepth := rfl
@[simp] theorem State.writeByte_wait (a : Nat) (b : Byte) : (s.writeByte a b).wait = s.wait := rfl
@[simp] theorem State.writeByte_fault (a : Nat) (b : Byte) : (s.writeByte a b).fault = s.fault := rfl
@[simp] theorem State.writeByte_stepNo (a : Nat) (b : Byte) : (s.writeByte a b).stepNo = s.stepNo := rfl
@[simp] theorem State.getV_writeByte (a : Nat) (b : Byte) (r : Reg) : (s.writeByte a b).getV r = s.getV r := rfl
@[simp] theorem State.cell_writeByte (a : Nat) (b : Byte) (k : CellIndex) : (s.writeByte a b).cell k = s.cell k := rfl
@[simp] theorem State.sp_writeByte (a : Nat) (b : Byte) : (s.writeByte a b).sp = s.sp := rfl
@[simp] theorem State.flipCell_mem (k : CellIndex) : (s.flipCell k).mem = s.mem := rfl
@[simp] theorem State.flipCell_v (k : CellIndex) : (s.flipCell k).v = s.v := rfl
@[simp] theorem State.flipCell_i (k : CellIndex) : (s.flipCell k).i = s.i := rfl
@[simp] theorem State.flipCell_pc (k : CellIndex) : (s.flipCell k).pc = s.pc := rfl
@[simp] theorem State.flipCell_stack (k : CellIndex) : (s.flipCell k).stack = s.stack := rfl
@[simp] theorem State.flipCell_dt (k : CellIndex) : (s.flipCell k).dt = s.dt := rfl
@[simp] theorem State.flipCell_st (k : CellIndex) : (s.flipCell k).st = s.st := rfl
@[simp] theorem State.flipCell_quirkShift (k : CellIndex) : (s.flipCell k).quirkShift = s.quirkShift := rfl
@[simp] theorem State.flipCell_quirkJump (k : CellIndex) : (s.flipCell k).quirkJump = s.quirkJump := rfl
@[simp] theorem State.flipCell_quirkIndex (k : CellIndex) : (s.flipCell k).quirkIndex = s.quirkIndex := rfl
@[simp] theorem State.flipCell_stackDepth (k : CellIndex) : (s.flipCell k).stackDepth = s.stackDepth := rfl
@[simp] theorem State.flipCell_wait (k : CellIndex) : (s.flipCell k).wait = s.wait := rfl
@[simp] theorem State.flipCell_fault (k : CellIndex) : (s.flipCell k).fault = s.fault := rfl
@[simp] theorem State.flipCell_stepNo (k : CellIndex) : (s.flipCell k).stepNo = s.stepNo := rfl
@[simp] theorem State.getV_flipCell (k : CellIndex) (r : Reg) : (s.flipCell k).getV r = s.getV r := rfl
@[simp] theorem State.readByte_flipCell (k : CellIndex) (a : Nat) : (s.flipCell k).readByte a = s.readByte a := rfl

end Sys2Proof.Machine
end

