-- ==== Sys2Proof/Laws/Memory.lean ====
section
/-! SUPPORT. The laws of memory: a read after a write, and that every operation keeps the canonical form. The reading
laws hold of any list, canonical or not. -/

namespace Sys2Proof.Machine

theorem Memory.read_of_forall_ne {m : Memory} {a : Nat} (h : ∀ c ∈ m, c.1 ≠ a) : Memory.read m a = Memory.blank := by
  induction m with
  | nil => rfl
  | cons c rest ih =>
    obtain ⟨k, b⟩ := c
    have hk : k ≠ a := h (k, b) (by simp)
    simp only [Memory.read, if_neg hk]
    exact ih fun d hd => h d (by simp [hd])

theorem Memory.mem_erase {m : Memory} {a : Nat} {c : Host.Cell} : c ∈ Memory.erase m a ↔ c ∈ m ∧ c.1 ≠ a := by
  simp [Memory.erase]

theorem Memory.read_erase (m : Memory) (a a' : Nat) :
    Memory.read (Memory.erase m a) a' = if a' = a then Memory.blank else Memory.read m a' := by
  split
  · next h => exact Memory.read_of_forall_ne fun c hc => by rw [h]; exact (Memory.mem_erase.1 hc).2
  · next h =>
    induction m with
    | nil => rfl
    | cons c rest ih =>
      obtain ⟨k, b⟩ := c
      by_cases hk : k = a
      · have hne : ¬ k = a' := fun e => h (e ▸ hk)
        simpa [Memory.erase, hk, Memory.read, Ne.symm h] using ih
      · have hcons : Memory.erase ((k, b) :: rest) a = (k, b) :: Memory.erase rest a := by simp [Memory.erase, hk]
        rw [hcons, Memory.read, Memory.read, ih]

theorem Memory.read_insert {m : Memory} {a : Nat} (b : Byte) (h : ∀ c ∈ m, c.1 ≠ a) (a' : Nat) :
    Memory.read (Memory.insert a b m) a' = if a' = a then b else Memory.read m a' := by
  induction m with
  | nil => by_cases e : a = a' <;> simp [Memory.insert, Memory.read, e, eq_comm]
  | cons c rest ih =>
    obtain ⟨k, d⟩ := c
    have hk : k ≠ a := h (k, d) (by simp)
    have ih := ih fun d hd => h d (by simp [hd])
    rw [Memory.insert]
    split
    · by_cases e : a' = a
      · rw [Memory.read, if_pos e.symm, if_pos e]
      · rw [Memory.read, if_neg (Ne.symm e), if_neg e]
    · by_cases e : k = a'
      · rw [Memory.read, if_pos e, if_neg (fun e' => hk (e.trans e')), Memory.read, if_pos e]
      · rw [Memory.read, if_neg e, ih, Memory.read, if_neg e]

/-- A read after a write: the byte written at its address, the old byte everywhere else (R59, R61). -/
theorem Memory.read_write (m : Memory) (a : Nat) (b : Byte) (a' : Nat) :
    Memory.read (Memory.write m a b) a' = if a' = a then b else Memory.read m a' := by
  unfold Memory.write
  split
  · next h => rw [Memory.read_erase, h]
  · rw [Memory.read_insert b (fun c hc => (Memory.mem_erase.1 hc).2), Memory.read_erase]
    split <;> rfl

theorem Memory.mem_insert {m : Memory} {a : Nat} {b : Byte} {c : Host.Cell} :
    c ∈ Memory.insert a b m ↔ c = (a, b) ∨ c ∈ m := by
  induction m with
  | nil => simp [Memory.insert]
  | cons d rest ih =>
    simp only [Memory.insert]
    split
    · simp
    · simp [ih, or_left_comm]

theorem Memory.wf_nil : Memory.wf [] := ⟨List.Pairwise.nil, by simp⟩

/-- Memory at reset is canonical. -/
theorem State.reset_memory_wf : Memory.wf State.reset.mem := Memory.wf_nil

theorem Memory.wf_erase {m : Memory} (h : Memory.wf m) (a : Nat) : Memory.wf (Memory.erase m a) :=
  ⟨h.1.filter _, fun c hc => h.2 c (Memory.mem_erase.1 hc).1⟩

theorem Memory.wf_insert {m : Memory} (h : Memory.wf m) {a : Nat} {b : Byte} (hm : ∀ c ∈ m, c.1 ≠ a)
    (ha : a < Config.memSize) (hb : b ≠ Memory.blank) : Memory.wf (Memory.insert a b m) := by
  refine ⟨?_, fun c hc => (Memory.mem_insert.1 hc).elim (fun e => e ▸ ⟨ha, hb⟩) (h.2 c)⟩
  obtain ⟨hp, -⟩ := h
  induction m with
  | nil => simp [Memory.insert]
  | cons d rest ih =>
    obtain ⟨k, c⟩ := d
    have hp' := List.pairwise_cons.1 hp
    have hne : k ≠ a := hm (k, c) (by simp)
    simp only [Memory.insert]
    split
    · next hlt =>
      refine List.pairwise_cons.2 ⟨fun e he => ?_, hp⟩
      rcases List.mem_cons.1 he with rfl | he
      · exact hlt
      · exact lt_trans hlt (hp'.1 e he)
    · next hge =>
      refine List.pairwise_cons.2 ⟨fun e he => ?_, ih (fun e he => hm e (by simp [he])) hp'.2⟩
      rcases Memory.mem_insert.1 he with rfl | he
      · show k < a
        omega
      · exact hp'.1 e he

/-- Every write inside the memory keeps the canonical form. -/
theorem Memory.wf_write {m : Memory} (h : Memory.wf m) {a : Nat} (ha : a < Config.memSize) (b : Byte) :
    Memory.wf (Memory.write m a b) := by
  unfold Memory.write
  split
  · exact Memory.wf_erase h a
  · next hb => exact Memory.wf_insert (Memory.wf_erase h a) (fun c hc => (Memory.mem_erase.1 hc).2) ha hb

theorem Memory.wf_writeAll {m : Memory} (h : Memory.wf m) (bs : List Byte) {a : Nat}
    (ha : a + bs.length ≤ Config.memSize) : Memory.wf (Memory.writeAll m a bs) := by
  induction bs generalizing m a with
  | nil => exact h
  | cons b bs ih =>
    simp only [List.length_cons] at ha
    exact ih (Memory.wf_write h (by omega) b) (by omega)

/-- A run of bytes reads back: the bytes written in the run, the old bytes outside it. -/
theorem Memory.read_writeAll (m : Memory) (bs : List Byte) (a a' : Nat) :
    Memory.read (Memory.writeAll m a bs) a' =
      if h : a ≤ a' ∧ a' < a + bs.length then bs[a' - a]'(by omega) else Memory.read m a' := by
  induction bs generalizing m a with
  | nil =>
    have : ¬ (a ≤ a' ∧ a' < a + ([] : List Byte).length) := by simp
    rw [dif_neg this, Memory.writeAll]
  | cons b bs ih =>
    rw [Memory.writeAll, ih, Memory.read_write]
    by_cases h0 : a' = a
    · subst h0
      simp
    · by_cases h1 : a + 1 ≤ a' ∧ a' < a + 1 + bs.length
      · have h2 : a ≤ a' ∧ a' < a + (b :: bs).length := by simp only [List.length_cons]; omega
        obtain ⟨j, rfl⟩ : ∃ j, a' = a + 1 + j := ⟨a' - (a + 1), by omega⟩
        rw [dif_pos h1, dif_pos h2]
        have e1 : a + 1 + j - (a + 1) = j := by omega
        have e2 : a + 1 + j - a = j + 1 := by omega
        simp [e1, e2]
      · have h2 : ¬ (a ≤ a' ∧ a' < a + (b :: bs).length) := by simp only [List.length_cons]; omega
        rw [dif_neg h1, dif_neg h2, if_neg h0]

/-- A read of the state after a write of the state. -/
@[simp] theorem State.readByte_writeByte (s : State) (a : Nat) (b : Byte) (a' : Nat) :
    (s.writeByte a b).readByte a' = if a' = a then b else s.readByte a' := Memory.read_write s.mem a b a'

end Sys2Proof.Machine
end

