-- ==== Sys2Proof/Laws/Ops.lean ====
section
/-! SUPPORT. One lemma for each shared operation, saying once what it does: registers, display cells, the stack
controller, taking a fault, operand forms and flags. -/

namespace Sys2Proof.Machine

/-- A register reads as the byte written if it is the one written, as before otherwise (R21). -/
@[simp] theorem State.getV_setV (s : State) (r : Reg) (b : Byte) (r' : Reg) :
    (s.setV r b).getV r' = if r' = r then b else s.getV r' := by
  simp only [State.getV, State.setV, Fin.getElem_fin, Vector.getElem_set, Fin.ext_iff, eq_comm]

theorem cellRow_val (k : CellIndex) : (cellRow k).val = k.val / 64 := by
  have := k.isLt
  simp only [cellRow, Fin.val_ofNat]
  omega

/-- A cell's row and column tell it apart (R26). -/
theorem cell_eq_iff (k k' : CellIndex) : k' = k ↔ cellRow k' = cellRow k ∧ cellColumn k' = cellColumn k := by
  simp only [Fin.ext_iff, cellRow_val, cellColumn]
  omega

/-- A flipped cell reads as its complement, every other cell as before (R201). -/
@[simp] theorem State.cell_flipCell (s : State) (k k' : CellIndex) :
    (s.flipCell k).cell k' = if k' = k then s.cell k' ^^^ 1 else s.cell k' := by
  have hc : cellColumn k' < 64 := Nat.mod_lt _ (by decide)
  have hset : (s.flipCell k).disp[cellRow k'] =
      if cellRow k' = cellRow k then s.disp[cellRow k'] ^^^ BitVec.twoPow 64 (cellColumn k) else s.disp[cellRow k'] := by
    simp only [State.flipCell, State.setDisp, Fin.getElem_fin, Vector.getElem_set, Fin.ext_iff]
    split
    · next h => rw [if_pos h.symm]; simp [h]
    · next h => rw [if_neg (Ne.symm h)]
  have flip : ∀ b : Bool, BitVec.ofBool (!b) = BitVec.ofBool b ^^^ (1 : Bit) := by decide
  simp only [State.cell, hset, cell_eq_iff]
  by_cases hr : cellRow k' = cellRow k
  · by_cases hcol : cellColumn k' = cellColumn k
    · rw [if_pos hr, if_pos ⟨hr, hcol⟩, ← flip, BitVec.getLsbD_xor, BitVec.getLsbD_twoPow]
      simp [hcol ▸ hc, hcol]
    · rw [if_pos hr, if_neg (fun h => hcol h.2), BitVec.getLsbD_xor, BitVec.getLsbD_twoPow]
      simp [Ne.symm hcol]
  · rw [if_neg hr, if_neg (fun h => hr h.1)]

/-- `SP` is the number of entries (R25). -/
theorem State.sp_eq (s : State) : s.sp = s.stack.length := rfl

/-- The stack is full exactly when it has a depth and that many entries (R25). -/
theorem State.full_iff (s : State) : s.full = true ↔ s.stackDepth = some s.sp := beq_iff_eq

/-- Everything `Push` can do (R25). -/
theorem State.push_cases (s : State) (w : Word) :
    (s.stackDepth = some s.sp ∧ s.push w = none) ∨
      (s.stackDepth ≠ some s.sp ∧ s.push w = some (s.setStack (w :: s.stack))) := by
  unfold State.push
  split
  · next h => exact .inl ⟨s.full_iff.1 h, rfl⟩
  · next h => exact .inr ⟨fun e => h (s.full_iff.2 e), rfl⟩

/-- Everything `Pop` can do (R25). -/
theorem State.pop_cases (s : State) :
    (s.stack = [] ∧ s.pop = none) ∨ ∃ w rest, s.stack = w :: rest ∧ s.pop = some (w, s.setStack rest) := by
  unfold State.pop
  cases h : s.stack with
  | nil => exact .inl ⟨rfl, rfl⟩
  | cons w rest => exact .inr ⟨w, rest, rfl, rfl⟩

/-- `raise` answers a next state in which only `FAULT` is written (R240). -/
theorem raise_eq (kind : FaultKind) (i : Instr) (s : State) :
    raise kind i s = .next (s.setFault (some ⟨kind, some (encode i), s.pc - 2⟩)) := rfl

theorem State.pastMemory_iff (s : State) (o : Nat) : s.pastMemory o = true ↔ s.i.toNat + o > 4095 := by
  simp [State.pastMemory, State.ea]

theorem State.pastMemory_eq_false_iff (s : State) (o : Nat) : s.pastMemory o = false ↔ s.i.toNat + o ≤ 4095 := by
  simp [State.pastMemory, State.ea]

/-- Registers 0 to X are those of index at most X (R184, R185). -/
theorem mem_regsTo {x r : Reg} : r ∈ regsTo x ↔ r ≤ x := by
  simp only [regsTo, List.mem_map, List.mem_range, Fin.le_iff_val_le_val]
  constructor
  · rintro ⟨j, hj, rfl⟩
    have := x.isLt
    simp only [Fin.val_ofNat]
    omega
  · intro h
    exact ⟨r.val, by omega, Fin.ext (by simp)⟩

/-- Registers 0 to X each come once. -/
theorem nodup_regsTo (x : Reg) : (regsTo x).Nodup := by
  revert x
  decide

/-- A skip changes `PC` and nothing else (R138). -/
theorem State.skipIf_eq (s : State) (b : Bool) : s.skipIf b = s.setPc (if b then s.pc + 2 else s.pc) := by
  cases b <;> rfl

theorem State.indexAfter_eq (s : State) (x : Reg) :
    s.indexAfter x = s.setI (if s.quirkIndex then s.i + BitVec.ofNat 16 (x.val + 1) else s.i) := by
  unfold State.indexAfter
  split <;> rfl

theorem State.shiftSource_eq (s : State) (x y : Reg) :
    s.shiftSource x y = if s.quirkShift then s.setV x (s.getV y) else s := rfl

/-- A register's value is a key index exactly when it is at most 15 (R220). -/
theorem keyOf_eq_none_iff (b : Byte) : keyOf b = none ↔ 15 < b.toNat := by
  unfold keyOf
  split
  · simp; omega
  · simp; omega

theorem keyOf_eq_some_iff (b : Byte) (k : Key) : keyOf b = some k ↔ b.toNat = k.val := by
  unfold keyOf
  have := k.isLt
  split
  · simp [Fin.ext_iff]
  · simp; omega

theorem flagByte_eq_one_iff (b : Bool) : flagByte b = 1 ↔ b = true := by cases b <;> decide

theorem State.noteCollision_eq (s : State) (k : CellIndex) :
    s.noteCollision k = if s.cell k = 1 then s.setV VF 1 else s := rfl

/-- Zero extension keeps the value (R83). -/
@[simp] theorem zextAddr_toNat (nnn : Addr) : (zextAddr nnn).toNat = nnn.toNat := by
  have := nnn.isLt
  simp only [zextAddr, BitVec.zeroExtend, BitVec.toNat_setWidth]
  omega

@[simp] theorem zextByte_toNat (b : Byte) : (zextByte b).toNat = b.toNat := by
  have := b.isLt
  simp only [zextByte, BitVec.zeroExtend, BitVec.toNat_setWidth]
  omega

theorem spriteCell_val (vx vy : Byte) (r c : Nat) :
    (spriteCell vx vy r c).val = (vx.toNat + c + 64 * (vy.toNat + r)) % 2048 := rfl

end Sys2Proof.Machine
end

