-- ==== Sys2Proof/Laws/Loops.lean ====
section
/-! SUPPORT. What the loops of FX55, FX65 and DXYN leave: each said once, for any list of registers or rows. -/

namespace Sys2Proof.Machine

/-- The stores of FX55 change memory and nothing else (R184). -/
theorem storeRegs_eq_setMem (l : List Reg) (s : State) :
    ∃ m, l.foldl State.storeReg s = s.setMem m := by
  induction l generalizing s with
  | nil => exact ⟨s.mem, rfl⟩
  | cons r l ih =>
    obtain ⟨m, hm⟩ := ih (s.storeReg r)
    exact ⟨m, by rw [List.foldl_cons, hm]; rfl⟩

/-- The bytes the stores of FX55 leave (R184). -/
theorem storeRegs_readByte (l : List Reg) (hl : l.Nodup) (s : State) (a : Nat) :
    (∀ r ∈ l, a = s.i.toNat + r.val → (l.foldl State.storeReg s).readByte a = s.getV r) ∧
      ((∀ r ∈ l, a ≠ s.i.toNat + r.val) → (l.foldl State.storeReg s).readByte a = s.readByte a) := by
  induction l generalizing s with
  | nil => simp
  | cons r l ih =>
    obtain ⟨hr, hl⟩ := List.nodup_cons.1 hl
    obtain ⟨h1, h2⟩ := ih hl (s.storeReg r)
    refine ⟨fun q hq ha => ?_, fun h => ?_⟩
    · rcases List.mem_cons.1 hq with rfl | hq
      · rw [List.foldl_cons, h2 fun p hp e => hr (by
          have : q = p := Fin.ext (by simp only [State.storeReg, State.writeByte_i] at e; omega)
          exact this ▸ hp)]
        simp [State.storeReg, State.ea, ha]
      · rw [List.foldl_cons, h1 q hq ha]
        rfl
    · rw [List.foldl_cons, h2 fun p hp => h p (by simp [hp])]
      simp [State.storeReg, State.ea, h r (by simp)]

/-- The stores of FX55 inside the memory keep its canonical form. -/
theorem storeRegs_wf (l : List Reg) (s : State) (h : Memory.wf s.mem)
    (hl : ∀ r ∈ l, s.i.toNat + r.val < Config.memSize) : Memory.wf (l.foldl State.storeReg s).mem := by
  induction l generalizing s with
  | nil => exact h
  | cons r l ih =>
    exact ih (s.storeReg r) (Memory.wf_write h (hl r (by simp)) _) fun q hq => hl q (by simp [hq])

/-- The loads of FX65 change the general registers and nothing else (R185). -/
theorem loadRegs_eq_v (l : List Reg) (s : State) :
    ∃ v, l.foldl State.loadReg s = { s with v := v } := by
  induction l generalizing s with
  | nil => exact ⟨s.v, rfl⟩
  | cons r l ih =>
    obtain ⟨v, hv⟩ := ih (s.loadReg r)
    exact ⟨v, by rw [List.foldl_cons, hv]; rfl⟩

/-- The registers the loads of FX65 leave (R185). -/
theorem loadRegs_getV (l : List Reg) (s : State) (q : Reg) :
    (l.foldl State.loadReg s).getV q = if q ∈ l then s.readByte (s.i.toNat + q.val) else s.getV q := by
  induction l generalizing s with
  | nil => simp
  | cons r l ih =>
    rw [List.foldl_cons, ih]
    by_cases hq : q ∈ l
    · simp [hq, State.loadReg]
    · by_cases e : q = r
      · simp [e, State.loadReg, State.ea]
      · simp [hq, e, State.loadReg]

/-- One sprite bit changes the display and `VF` and nothing else (R201). -/
theorem drawBit_shape (vx vy : Byte) (r : Nat) (b : Byte) (s : State) (c : Nat) :
    ∃ v d, s.drawBit vx vy r b c = { s with v := v, disp := d } ∧ ∀ q, q ≠ VF → (s.drawBit vx vy r b c).getV q = s.getV q := by
  unfold State.drawBit
  split
  · unfold State.noteCollision
    split
    · refine ⟨_, _, rfl, fun q hq => ?_⟩
      simp [hq]
    · exact ⟨_, _, rfl, fun q _ => rfl⟩
  · exact ⟨_, _, rfl, fun q _ => rfl⟩

/-- A whole sprite changes the display and `VF` and nothing else (R201). -/
theorem drawSprite_shape (s : State) (vx vy : Byte) (n : Nat) :
    ∃ v d, s.drawSprite vx vy n = { s with v := v, disp := d } ∧
      ∀ q, q ≠ VF → (s.drawSprite vx vy n).getV q = s.getV q := by
  have bits : ∀ (l : List Nat) (r : Nat) (b : Byte) (s : State), ∃ v d,
      l.foldl (State.drawBit vx vy r b) s = { s with v := v, disp := d } ∧
        ∀ q, q ≠ VF → (l.foldl (State.drawBit vx vy r b) s).getV q = s.getV q := by
    intro l r b
    induction l with
    | nil => exact fun s => ⟨_, _, rfl, fun _ _ => rfl⟩
    | cons c l ih =>
      intro s
      obtain ⟨v, d, h, hv⟩ := drawBit_shape vx vy r b s c
      obtain ⟨v', d', h', hv'⟩ := ih (s.drawBit vx vy r b c)
      refine ⟨v', d', ?_, fun q hq => ?_⟩
      · rw [List.foldl_cons, h', h]
      · rw [List.foldl_cons, hv' q hq, hv q hq]
  have rows : ∀ (l : List Nat) (s : State), ∃ v d,
      l.foldl (State.drawRow vx vy) s = { s with v := v, disp := d } ∧
        ∀ q, q ≠ VF → (l.foldl (State.drawRow vx vy) s).getV q = s.getV q := by
    intro l
    induction l with
    | nil => exact fun s => ⟨_, _, rfl, fun _ _ => rfl⟩
    | cons r l ih =>
      intro s
      obtain ⟨v, d, h, hv⟩ := bits (List.range 8) r (s.readByte (s.ea r)) s
      obtain ⟨v', d', h', hv'⟩ := ih (State.drawRow vx vy s r)
      refine ⟨v', d', ?_, fun q hq => ?_⟩
      · rw [List.foldl_cons, h', State.drawRow, h]
      · rw [List.foldl_cons, hv' q hq, State.drawRow, hv q hq]
  obtain ⟨v, d, h, hv⟩ := rows (List.range n) (s.setV VF 0)
  refine ⟨v, d, ?_, fun q hq => ?_⟩
  · rw [State.drawSprite, h]; rfl
  · rw [State.drawSprite, hv q hq]; simp [hq]

end Sys2Proof.Machine
end

