-- ==== Sys2Proof/Laws/Draw.lean ====
section
/-! SUPPORT. A sprite as one list of cells: the cells under its set bits, each hit once. -/

namespace Sys2Proof.Machine

/-- One cell hit: a collision noted, the cell flipped (R201). -/
def State.hit (s : State) (k : CellIndex) : State := (s.noteCollision k).flipCell k

/-- The cells under the set bits of a row's byte, leftmost first (R201, R203). -/
def rowCells (vx vy : Byte) (r : Nat) (b : Byte) : List CellIndex :=
  ((List.range 8).filter (spriteBit b)).map (spriteCell vx vy r)

/-- The cells under the set bits of a sprite, row by row (R201). -/
def State.spriteCells (s : State) (vx vy : Byte) (n : Nat) : List CellIndex :=
  (List.range n).flatMap fun r => rowCells vx vy r (s.readByte (s.ea r))

/-- A hit changes the display and `VF` and nothing else. -/
theorem hit_eq (s : State) (k : CellIndex) :
    s.hit k = (if s.cell k = 1 then s.setV VF 1 else s).flipCell k := rfl

@[simp] theorem mem_hit (s : State) (k : CellIndex) : (s.hit k).mem = s.mem := by
  rw [hit_eq]; split <;> rfl

@[simp] theorem i_hit (s : State) (k : CellIndex) : (s.hit k).i = s.i := by
  rw [hit_eq]; split <;> rfl

@[simp] theorem cell_hit (s : State) (k k' : CellIndex) :
    (s.hit k).cell k' = if k' = k then s.cell k' ^^^ 1 else s.cell k' := by
  rw [hit_eq]; split <;> simp

/-- A row of a sprite hits the cells under the set bits of its byte. -/
theorem drawRow_eq (vx vy : Byte) (s : State) (r : Nat) :
    State.drawRow vx vy s r = (rowCells vx vy r (s.readByte (s.ea r))).foldl State.hit s := by
  rw [rowCells, List.foldl_map, List.foldl_filter]
  rfl

/-- Hits leave memory and `I` alone, so every row's byte is the one memory holds before the draw. -/
theorem hits_mem_i (l : List CellIndex) (s : State) :
    (l.foldl State.hit s).mem = s.mem ∧ (l.foldl State.hit s).i = s.i := by
  induction l generalizing s with
  | nil => exact ⟨rfl, rfl⟩
  | cons k l ih => simpa using ih (s.hit k)

/-- A sprite hits its cells, one after the other (R201). -/
theorem drawSprite_eq (s : State) (vx vy : Byte) (n : Nat) :
    s.drawSprite vx vy n = (s.spriteCells vx vy n).foldl State.hit (s.setV VF 0) := by
  have rows : ∀ (l : List Nat) (t : State), t.mem = s.mem → t.i = s.i →
      l.foldl (State.drawRow vx vy) t =
        (l.flatMap fun r => rowCells vx vy r (s.readByte (s.ea r))).foldl State.hit t := by
    intro l
    induction l with
    | nil => exact fun _ _ _ => rfl
    | cons r l ih =>
      intro t hm hi
      have hb : t.readByte (t.ea r) = s.readByte (s.ea r) := by
        simp only [State.readByte, State.ea, hm, hi]
      rw [List.foldl_cons, List.flatMap_cons, List.foldl_append, drawRow_eq, hb]
      obtain ⟨h1, h2⟩ := hits_mem_i (rowCells vx vy r (s.readByte (s.ea r))) t
      exact ih _ (h1.trans hm) (h2.trans hi)
  exact rows _ _ rfl rfl

/-- Distinct cells hit once each: those flip, the others stay. -/
theorem hits_cell (l : List CellIndex) (hl : l.Nodup) (s : State) (k : CellIndex) :
    (l.foldl State.hit s).cell k = if k ∈ l then s.cell k ^^^ 1 else s.cell k := by
  induction l generalizing s with
  | nil => simp
  | cons q l ih =>
    obtain ⟨hq, hl⟩ := List.nodup_cons.1 hl
    rw [List.foldl_cons, ih hl, cell_hit]
    by_cases e : k = q
    · subst e; simp [hq]
    · simp [e]

/-- Distinct cells hit once each: `VF` ends as 1 if one of them was on, and as before otherwise. -/
theorem hits_flag (l : List CellIndex) (hl : l.Nodup) (s : State) :
    ((∃ k ∈ l, s.cell k = 1) → (l.foldl State.hit s).getV VF = 1) ∧
      ((¬ ∃ k ∈ l, s.cell k = 1) → (l.foldl State.hit s).getV VF = s.getV VF) := by
  induction l generalizing s with
  | nil => simp
  | cons q l ih =>
    obtain ⟨hq, hl⟩ := List.nodup_cons.1 hl
    obtain ⟨h1, h2⟩ := ih hl (s.hit q)
    have same : (∃ k ∈ l, (s.hit q).cell k = 1) ↔ ∃ k ∈ l, s.cell k = 1 := by
      refine exists_congr fun k => and_congr_right fun hk => ?_
      rw [cell_hit, if_neg (show k ≠ q from fun e => hq (e ▸ hk))]
    rw [same] at h1 h2
    have head : (s.hit q).getV VF = if s.cell q = 1 then 1 else s.getV VF := by
      rw [hit_eq]; split <;> simp
    rw [List.foldl_cons]
    by_cases hl : ∃ k ∈ l, s.cell k = 1
    · refine ⟨fun _ => h1 hl, fun h => absurd ?_ h⟩
      obtain ⟨k, hk, hc⟩ := hl
      exact ⟨k, List.mem_cons_of_mem _ hk, hc⟩
    · rw [h2 hl, head]
      refine ⟨?_, fun h => if_neg fun hc => h ⟨q, List.mem_cons_self, hc⟩⟩
      rintro ⟨k, hk, hc⟩
      rcases List.mem_cons.1 hk with rfl | hk
      · exact if_pos hc
      · exact absurd ⟨k, hk, hc⟩ hl

/-- Which cells a sprite has: row, column, set bit, and the wrapped index (R201, R203). -/
theorem mem_spriteCells {s : State} {vx vy : Byte} {n : Nat} {k : CellIndex} :
    k ∈ s.spriteCells vx vy n ↔
      ∃ r, r < n ∧ ∃ c, c < 8 ∧ (s.readByte (s.i.toNat + r)).getLsbD (7 - c) = true ∧ spriteCell vx vy r c = k := by
  simp only [State.spriteCells, rowCells, List.mem_flatMap, List.mem_range, List.mem_map, List.mem_filter, spriteBit,
    State.ea, and_assoc]

/-- The cells of a sprite of at most 15 rows are distinct: it is smaller than the display. -/
theorem nodup_spriteCells (s : State) (vx vy : Byte) {n : Nat} (hn : n < 16) : (s.spriteCells vx vy n).Nodup := by
  have inj : ∀ r c r' c', r < 16 → c < 8 → r' < 16 → c' < 8 → spriteCell vx vy r c = spriteCell vx vy r' c' →
      r = r' ∧ c = c' := by
    intro r c r' c' hr hc hr' hc' h
    have h := congrArg Fin.val h
    simp only [spriteCell_val] at h
    omega
  refine List.nodup_flatMap.2 ⟨fun r hr => ?_, ?_⟩
  · refine List.Nodup.map_on (fun c hc c' hc' h => ?_) (List.nodup_range.filter _)
    simp only [List.mem_filter, List.mem_range] at hr hc hc'
    exact (inj r c r c' (by omega) hc.1 (by omega) hc'.1 h).2
  · refine List.Pairwise.imp_of_mem (fun {r r'} hr hr' hne => ?_) (List.nodup_range (n := n))
    simp only [List.mem_range] at hr hr'
    intro k hk hk'
    simp only [rowCells, List.mem_map, List.mem_filter, List.mem_range] at hk hk'
    obtain ⟨c, ⟨hc, -⟩, rfl⟩ := hk
    obtain ⟨c', ⟨hc', -⟩, h⟩ := hk'
    exact hne (inj r' c' r c (by omega) hc' (by omega) hc h).1.symm

end Sys2Proof.Machine
end

