-- ==== Sys2Proof/Laws/PerInstr.lean ====
section
/-! SUPPORT. Statements made per instruction, about the instruction as syntax. -/

/-- The word of an instruction selects the row of its own kind in the opcode map: `w & mask = match` (`30_encoding.md`
R85). -/
def Sys2Proof.Laws.SelectsRow.Statement (i : Sys2Proof.Instr) : Prop :=
  Sys2Proof.encode i &&& (Sys2Proof.opRow i).mask = (Sys2Proof.opRow i).pattern

namespace Sys2Proof.Laws.SelectsRow

/-- Masking a word of three parts masks each part. -/
theorem and_append₂ {k l m : Nat} (a a' : BitVec k) (b b' : BitVec l) (c c' : BitVec m) :
    (a ++ b ++ c) &&& (a' ++ b' ++ c') = (a &&& a') ++ (b &&& b') ++ (c &&& c') := by
  rw [BitVec.and_append, BitVec.and_append]

/-- Masking a word of four parts masks each part. -/
theorem and_append₃ {k l m n : Nat} (a a' : BitVec k) (b b' : BitVec l) (c c' : BitVec m) (d d' : BitVec n) :
    (a ++ b ++ c ++ d) &&& (a' ++ b' ++ c' ++ d') = (a &&& a') ++ (b &&& b') ++ (c &&& c') ++ (d &&& d') := by
  rw [BitVec.and_append, BitVec.and_append, BitVec.and_append]

/-- The mask of a group whose other twelve bits are a literal. -/
theorem group_addr (g : Nibble) (a : Addr) : (g ++ a : Word) &&& 0xF000#16 = g ++ 0#12 := by
  rw [show (0xF000#16 : Word) = 0xF#4 ++ 0#12 by decide, BitVec.and_append]
  have h : (0xF#4 : Nibble) = BitVec.allOnes 4 := by decide
  rw [h, BitVec.and_allOnes, BitVec.and_zero]

theorem group_reg_byte (g x : Nibble) (b : Byte) : (g ++ x ++ b : Word) &&& 0xF000#16 = g ++ 0#4 ++ 0#8 := by
  rw [show (0xF000#16 : Word) = 0xF#4 ++ 0#4 ++ 0#8 by decide, and_append₂]
  have h : (0xF#4 : Nibble) = BitVec.allOnes 4 := by decide
  rw [h, BitVec.and_allOnes, BitVec.and_zero, BitVec.and_zero]

theorem group_reg_sub (g x : Nibble) (b : Byte) : (g ++ x ++ b : Word) &&& 0xF0FF#16 = g ++ 0#4 ++ b := by
  rw [show (0xF0FF#16 : Word) = 0xF#4 ++ 0#4 ++ 0xFF#8 by decide, and_append₂]
  have h : (0xF#4 : Nibble) = BitVec.allOnes 4 := by decide
  have h8 : (0xFF#8 : Byte) = BitVec.allOnes 8 := by decide
  rw [h, h8, BitVec.and_allOnes, BitVec.and_allOnes, BitVec.and_zero]

theorem group_reg_reg (g x y n : Nibble) :
    (g ++ x ++ y ++ n : Word) &&& 0xF000#16 = g ++ 0#4 ++ 0#4 ++ 0#4 := by
  rw [show (0xF000#16 : Word) = 0xF#4 ++ 0#4 ++ 0#4 ++ 0#4 by decide, and_append₃]
  have h : (0xF#4 : Nibble) = BitVec.allOnes 4 := by decide
  rw [h, BitVec.and_allOnes, BitVec.and_zero, BitVec.and_zero, BitVec.and_zero]

theorem group_reg_reg_sub (g x y n : Nibble) :
    (g ++ x ++ y ++ n : Word) &&& 0xF00F#16 = g ++ 0#4 ++ 0#4 ++ n := by
  rw [show (0xF00F#16 : Word) = 0xF#4 ++ 0#4 ++ 0#4 ++ 0xF#4 by decide, and_append₃]
  have h : (0xF#4 : Nibble) = BitVec.allOnes 4 := by decide
  rw [h, BitVec.and_allOnes, BitVec.and_allOnes, BitVec.and_zero, BitVec.and_zero]

theorem cls : Statement (.cls) := rfl
theorem ret : Statement (.ret) := rfl
theorem jp (nnn : Addr) : Statement (.jp nnn) := (group_addr 0x1#4 nnn).trans rfl
theorem call (nnn : Addr) : Statement (.call nnn) := (group_addr 0x2#4 nnn).trans rfl
theorem seImm (x : Reg) (nn : Byte) : Statement (.seImm x nn) := (group_reg_byte 0x3#4 (regBits x) nn).trans rfl
theorem sneImm (x : Reg) (nn : Byte) : Statement (.sneImm x nn) := (group_reg_byte 0x4#4 (regBits x) nn).trans rfl
theorem seReg (x y : Reg) (ignored : Nibble) : Statement (.seReg x y ignored) := (group_reg_reg 0x5#4 (regBits x) (regBits y) ignored).trans rfl
theorem ldImm (x : Reg) (nn : Byte) : Statement (.ldImm x nn) := (group_reg_byte 0x6#4 (regBits x) nn).trans rfl
theorem addImm (x : Reg) (nn : Byte) : Statement (.addImm x nn) := (group_reg_byte 0x7#4 (regBits x) nn).trans rfl
theorem ldReg (x y : Reg) : Statement (.ldReg x y) := (group_reg_reg_sub 0x8#4 (regBits x) (regBits y) 0x0#4).trans rfl
theorem orReg (x y : Reg) : Statement (.orReg x y) := (group_reg_reg_sub 0x8#4 (regBits x) (regBits y) 0x1#4).trans rfl
theorem andReg (x y : Reg) : Statement (.andReg x y) := (group_reg_reg_sub 0x8#4 (regBits x) (regBits y) 0x2#4).trans rfl
theorem xorReg (x y : Reg) : Statement (.xorReg x y) := (group_reg_reg_sub 0x8#4 (regBits x) (regBits y) 0x3#4).trans rfl
theorem addReg (x y : Reg) : Statement (.addReg x y) := (group_reg_reg_sub 0x8#4 (regBits x) (regBits y) 0x4#4).trans rfl
theorem subReg (x y : Reg) : Statement (.subReg x y) := (group_reg_reg_sub 0x8#4 (regBits x) (regBits y) 0x5#4).trans rfl
theorem shr (x y : Reg) : Statement (.shr x y) := (group_reg_reg_sub 0x8#4 (regBits x) (regBits y) 0x6#4).trans rfl
theorem subnReg (x y : Reg) : Statement (.subnReg x y) := (group_reg_reg_sub 0x8#4 (regBits x) (regBits y) 0x7#4).trans rfl
theorem shl (x y : Reg) : Statement (.shl x y) := (group_reg_reg_sub 0x8#4 (regBits x) (regBits y) 0xE#4).trans rfl
theorem sneReg (x y : Reg) (ignored : Nibble) : Statement (.sneReg x y ignored) := (group_reg_reg 0x9#4 (regBits x) (regBits y) ignored).trans rfl
theorem ldI (nnn : Addr) : Statement (.ldI nnn) := (group_addr 0xA#4 nnn).trans rfl
theorem jpV0 (nnn : Addr) : Statement (.jpV0 nnn) := (group_addr 0xB#4 nnn).trans rfl
theorem rnd (x : Reg) (nn : Byte) : Statement (.rnd x nn) := (group_reg_byte 0xC#4 (regBits x) nn).trans rfl
theorem drw (x y : Reg) (n : Nibble) : Statement (.drw x y n) := (group_reg_reg 0xD#4 (regBits x) (regBits y) n).trans rfl
theorem skp (x : Reg) : Statement (.skp x) := (group_reg_sub 0xE#4 (regBits x) 0x9E#8).trans rfl
theorem sknp (x : Reg) : Statement (.sknp x) := (group_reg_sub 0xE#4 (regBits x) 0xA1#8).trans rfl
theorem ldVxDt (x : Reg) : Statement (.ldVxDt x) := (group_reg_sub 0xF#4 (regBits x) 0x07#8).trans rfl
theorem ldVxK (x : Reg) : Statement (.ldVxK x) := (group_reg_sub 0xF#4 (regBits x) 0x0A#8).trans rfl
theorem ldDtVx (x : Reg) : Statement (.ldDtVx x) := (group_reg_sub 0xF#4 (regBits x) 0x15#8).trans rfl
theorem ldStVx (x : Reg) : Statement (.ldStVx x) := (group_reg_sub 0xF#4 (regBits x) 0x18#8).trans rfl
theorem addI (x : Reg) : Statement (.addI x) := (group_reg_sub 0xF#4 (regBits x) 0x1E#8).trans rfl
theorem ldF (x : Reg) : Statement (.ldF x) := (group_reg_sub 0xF#4 (regBits x) 0x29#8).trans rfl
theorem ldB (x : Reg) : Statement (.ldB x) := (group_reg_sub 0xF#4 (regBits x) 0x33#8).trans rfl
theorem storeRegs (x : Reg) : Statement (.storeRegs x) := (group_reg_sub 0xF#4 (regBits x) 0x55#8).trans rfl
theorem loadRegs (x : Reg) : Statement (.loadRegs x) := (group_reg_sub 0xF#4 (regBits x) 0x65#8).trans rfl

end Sys2Proof.Laws.SelectsRow
end

