-- ==== Sys2Proof/Laws/Step.lean ====
section
/-! SUPPORT. Everything a step can do, said once: halted, a fetch fault, a decode error, or an instruction executed. -/

namespace Sys2Proof.Machine

/-- No fetch fault exactly at an even address of at most 0x0FFE (R112). -/
theorem fetchCause_eq_none_iff (a : Word) : fetchCause a = none ↔ a.toNat ≤ 0x0FFE ∧ a.toNat % 2 = 0 := by
  have odd : a.getLsbD 0 = decide (a.toNat % 2 = 1) := by
    rw [BitVec.getLsbD, Nat.testBit_zero]
  unfold fetchCause
  rw [odd]
  split
  · simp; omega
  · split
    · next h => simp only [decide_eq_true_eq] at h; simp; omega
    · next h => simp only [decide_eq_true_eq] at h; simp; omega

/-- Everything fetch and decode can come to (R111, R112). -/
theorem State.fetchDecode_cases (s : State) :
    (∃ c, fetchCause s.pc = some c ∧ s.fetchDecode = .faulted (s.takeFault .fetchFault none s.pc)) ∨
      (fetchCause s.pc = none ∧ decode s.fetchWord = none ∧
        s.fetchDecode = .faulted (s.advance.takeFault .decodeError (some s.fetchWord) s.pc)) ∨
      ∃ i, fetchCause s.pc = none ∧ decode s.fetchWord = some i ∧ s.fetchDecode = .ready i s.advance := by
  unfold State.fetchDecode
  cases hc : fetchCause s.pc with
  | some c => exact .inl ⟨c, rfl, rfl⟩
  | none =>
    cases hd : decode s.fetchWord with
    | none => exact .inr (.inl ⟨rfl, rfl, rfl⟩)
    | some i => exact .inr (.inr ⟨i, rfl, rfl, rfl⟩)

/-- Everything a step can do (R111, R116). -/
theorem step_cases (s : State) :
    (∃ r, s.fault = some r ∧ step s = .fault (.halted r)) ∨
      (∃ c, s.fault = none ∧ fetchCause s.elapse.pc = some c ∧
        step s = .next (s.elapse.takeFault .fetchFault none s.elapse.pc)) ∨
      (s.fault = none ∧ fetchCause s.elapse.pc = none ∧ decode s.elapse.fetchWord = none ∧
        step s = .next (s.elapse.advance.takeFault .decodeError (some s.elapse.fetchWord) s.elapse.pc)) ∨
      ∃ i, s.fault = none ∧ fetchCause s.elapse.pc = none ∧ decode s.elapse.fetchWord = some i ∧
        step s = exec i s.elapse.advance := by
  unfold step
  cases hf : s.fault with
  | some r => exact .inl ⟨r, rfl, rfl⟩
  | none =>
    rcases s.elapse.fetchDecode_cases with ⟨c, hc, h⟩ | ⟨hc, hd, h⟩ | ⟨i, hc, hd, h⟩
    · exact .inr (.inl ⟨c, rfl, hc, by rw [h]⟩)
    · exact .inr (.inr (.inl ⟨rfl, hc, hd, by rw [h]⟩))
    · exact .inr (.inr (.inr ⟨i, rfl, hc, hd, by rw [h]⟩))

/-! The interval before a step touches the two timers and the model's own step number (R117). -/

@[simp] theorem State.elapse_mem (s : State) : s.elapse.mem = s.mem := rfl
@[simp] theorem State.elapse_v (s : State) : s.elapse.v = s.v := rfl
@[simp] theorem State.elapse_i (s : State) : s.elapse.i = s.i := rfl
@[simp] theorem State.elapse_pc (s : State) : s.elapse.pc = s.pc := rfl
@[simp] theorem State.elapse_stack (s : State) : s.elapse.stack = s.stack := rfl
@[simp] theorem State.elapse_disp (s : State) : s.elapse.disp = s.disp := rfl
@[simp] theorem State.elapse_quirkShift (s : State) : s.elapse.quirkShift = s.quirkShift := rfl
@[simp] theorem State.elapse_quirkJump (s : State) : s.elapse.quirkJump = s.quirkJump := rfl
@[simp] theorem State.elapse_quirkIndex (s : State) : s.elapse.quirkIndex = s.quirkIndex := rfl
@[simp] theorem State.elapse_stackDepth (s : State) : s.elapse.stackDepth = s.stackDepth := rfl
@[simp] theorem State.elapse_wait (s : State) : s.elapse.wait = s.wait := rfl
@[simp] theorem State.elapse_fault (s : State) : s.elapse.fault = s.fault := rfl
@[simp] theorem State.elapse_stepNo (s : State) : s.elapse.stepNo = s.stepNo + 1 := rfl
@[simp] theorem State.fetchWord_elapse (s : State) : s.elapse.fetchWord = s.fetchWord := rfl
@[simp] theorem State.getV_elapse (s : State) (r : Reg) : s.elapse.getV r = s.getV r := rfl
@[simp] theorem State.readByte_elapse (s : State) (a : Nat) : s.elapse.readByte a = s.readByte a := rfl
@[simp] theorem State.cell_elapse (s : State) (k : CellIndex) : s.elapse.cell k = s.cell k := rfl

end Sys2Proof.Machine
end

