-- ==== Sys2Proof/Laws/Timers.lean ====
section
/-! SUPPORT. The values of a timer after one tick and after several, floored at 0 (R256). -/

namespace Sys2Proof.Machine

theorem countOne_toNat (b : Byte) : (countOne b).toNat = b.toNat - 1 := by
  revert b
  decide

theorem countDown_toNat (n : Nat) (b : Byte) : (countDown n b).toNat = b.toNat - n := by
  have := b.isLt
  unfold countDown
  split
  · next h => simp [h]
  · rw [BitVec.toNat_ofNat]; omega

end Sys2Proof.Machine
end

