-- ==== Sys2Proof/Tests/Slice0.lean ====
section
/-! SUPPORT. Small tests, the expected results from `95_test_vectors.md` (vector numbers in the comments) or worked out
by hand from the rule named, and for each statement with hypotheses a theorem showing values that meet them. -/

namespace Sys2Proof.Tests

open Sys2Proof Sys2Proof.Machine

/-! ### Well-formedness (R86) -/

theorem test_wf_refuses_seReg_ignored : (Instr.seReg 1 2 1).wellFormed = false := by decide
theorem test_wf_refuses_sneReg_ignored : (Instr.sneReg 1 2 0xF).wellFormed = false := by decide
theorem test_wf_accepts : (Instr.seReg 1 2 0).wellFormed && (Instr.drw 1 2 0xF).wellFormed = true := by decide

/-! ### Decoding: one word per row, the fields placed by hand in the pattern of R85 -/

theorem test_decode_cls : decode 0b0000_0000_1110_0000 = some .cls := by decide
theorem test_decode_ret : decode 0b0000_0000_1110_1110 = some .ret := by decide
theorem test_decode_jp : decode 0b0001_1010_1011_1100 = some (.jp 0b1010_1011_1100) := by decide
theorem test_decode_call : decode 0b0010_0011_0000_0001 = some (.call 0b0011_0000_0001) := by decide
theorem test_decode_seImm : decode 0b0011_0001_0100_0010 = some (.seImm 1 0b0100_0010) := by decide
theorem test_decode_sneImm : decode 0b0100_1110_1000_0001 = some (.sneImm 14 0b1000_0001) := by decide
theorem test_decode_seReg : decode 0b0101_0001_0010_0000 = some (.seReg 1 2 0) := by decide
theorem test_decode_ldImm : decode 0b0110_1010_0100_0010 = some (.ldImm 10 0b0100_0010) := by decide
theorem test_decode_addImm : decode 0b0111_0011_1111_1111 = some (.addImm 3 0b1111_1111) := by decide
theorem test_decode_ldReg : decode 0b1000_0001_0010_0000 = some (.ldReg 1 2) := by decide
theorem test_decode_orReg : decode 0b1000_0011_0100_0001 = some (.orReg 3 4) := by decide
theorem test_decode_andReg : decode 0b1000_0101_0110_0010 = some (.andReg 5 6) := by decide
theorem test_decode_xorReg : decode 0b1000_0111_1000_0011 = some (.xorReg 7 8) := by decide
theorem test_decode_addReg : decode 0b1000_1001_1010_0100 = some (.addReg 9 10) := by decide
theorem test_decode_subReg : decode 0b1000_1011_1100_0101 = some (.subReg 11 12) := by decide
theorem test_decode_shr : decode 0b1000_1101_1110_0110 = some (.shr 13 14) := by decide
theorem test_decode_subnReg : decode 0b1000_1111_0000_0111 = some (.subnReg 15 0) := by decide
theorem test_decode_shl : decode 0b1000_0000_1111_1110 = some (.shl 0 15) := by decide
theorem test_decode_sneReg : decode 0b1001_0001_0010_0000 = some (.sneReg 1 2 0) := by decide
theorem test_decode_ldI : decode 0b1010_0001_0010_0011 = some (.ldI 0b0001_0010_0011) := by decide
theorem test_decode_jpV0 : decode 0b1011_0011_0000_0000 = some (.jpV0 0b0011_0000_0000) := by decide
theorem test_decode_rnd : decode 0b1100_0001_0000_1111 = some (.rnd 1 0b0000_1111) := by decide
theorem test_decode_drw : decode 0b1101_0001_0010_0011 = some (.drw 1 2 0b0011) := by decide
theorem test_decode_skp : decode 0b1110_0001_1001_1110 = some (.skp 1) := by decide
theorem test_decode_sknp : decode 0b1110_0010_1010_0001 = some (.sknp 2) := by decide
theorem test_decode_ldVxDt : decode 0b1111_0011_0000_0111 = some (.ldVxDt 3) := by decide
theorem test_decode_ldVxK : decode 0b1111_0100_0000_1010 = some (.ldVxK 4) := by decide
theorem test_decode_ldDtVx : decode 0b1111_0101_0001_0101 = some (.ldDtVx 5) := by decide
theorem test_decode_ldStVx : decode 0b1111_0110_0001_1000 = some (.ldStVx 6) := by decide
theorem test_decode_addI : decode 0b1111_0111_0001_1110 = some (.addI 7) := by decide
theorem test_decode_ldF : decode 0b1111_1000_0010_1001 = some (.ldF 8) := by decide
theorem test_decode_ldB : decode 0b1111_1001_0011_0011 = some (.ldB 9) := by decide
theorem test_decode_storeRegs : decode 0b1111_1010_0101_0101 = some (.storeRegs 10) := by decide
theorem test_decode_loadRegs : decode 0b1111_1011_0110_0101 = some (.loadRegs 11) := by decide

/-- Ignored low nibble (B1.7, B1.8). -/
theorem test_decode_ignored_nibble :
    decode 0x5121 = some (.seReg 1 2 1) ∧ decode 0x912F = some (.sneReg 1 2 0xF) := by decide

/-- Illegal words of groups 0, 8, E and F (B1.3 to B1.6). -/
theorem test_decode_illegal :
    [0x0000, 0x00E1, 0x01E0, 0x0123, 0x8128, 0x812D, 0x812F, 0xE19F, 0xE100, 0xF1FF, 0xF100, 0xF175].map decode =
      List.replicate 12 none := by decide

/-- Byte order and length (B1.1, R80). -/
theorem test_decode_bytes :
    decodeBytes [0x12, 0x34, 0x99] = .ok (.jp 0x234, [0x99]) ∧
      decodeBytes [0x00, 0x00] = .error (.unknownOpcode 0x0000) ∧ decodeBytes [0x12] = .error .truncated :=
  ⟨rfl, rfl, rfl⟩

theorem test_encode_bytes : encodeBytes (.drw 1 2 3) = [0xD1, 0x23] := by decide

theorem test_decode_table_word : decodeTableWord 16 0xF265 = some (.loadRegs 2) := by decide

/-! ### Small states and what a test reads off an outcome -/

/-- The next state, if there is one. -/
def next? : Result → Option State
  | .next t => some t
  | .fault _ => none
  | .refused _ => none

/-- A state as execute sees it, the instruction at 0x200, with some registers set. -/
def regs (l : List (Reg × Byte)) : State := l.foldl (fun s p => s.setV p.1 p.2) (State.reset.setPc 0x202)

/-- The same with `I` and some bytes of memory set. -/
def regsMem (l : List (Reg × Byte)) (i : Word) (m : List (Nat × Byte)) : State :=
  m.foldl (fun s p => s.writeByte p.1 p.2) ((regs l).setI i)

/-- The values of some registers after an instruction. -/
def valuesAfter (i : Instr) (s : State) (l : List Reg) : Option (List Byte) :=
  (next? (exec i s)).map fun t => l.map t.getV

/-- `PC` after an instruction. -/
def pcAfter (i : Instr) (s : State) : Option Word := (next? (exec i s)).map State.pc

/-- `I` after an instruction. -/
def indexAfter (i : Instr) (s : State) : Option Word := (next? (exec i s)).map State.i

/-- Some bytes of memory after an instruction. -/
def bytesAfter (i : Instr) (s : State) (l : List Nat) : Option (List Byte) :=
  (next? (exec i s)).map fun t => l.map t.readByte

/-- The fault record after an instruction. -/
def faultAfter (i : Instr) (s : State) : Option (Option FaultRecord) := (next? (exec i s)).map State.fault

/-- Some display cells, then `VF`, after an instruction. -/
def cellsAfter (i : Instr) (s : State) (l : List CellIndex) : Option (List Bit × Byte) :=
  (next? (exec i s)).map fun t => (l.map t.cell, t.getV VF)

/-- A stack of `n` return addresses. -/
def stacked (n : Nat) : State := (regs []).setStack (List.replicate n 0x0202)

/-! ### Fetch and step (R111, R112) -/

/-- B1.9: the last legal fetch address. -/
theorem test_fetch_last :
    (next? (step ((State.reset.setPc 0x0FFE).withFetchWord 16 0x6A42))).map (fun t => (t.pc, t.getV 10)) =
      some (0x1000, 0x42) := by decide

/-- B1.9 to B1.11: out of range, misaligned, and the range first. -/
theorem test_fetch_faults :
    ∀ p ∈ [(0x1000, FetchCause.outOfRange), (0x0201, .misaligned), (0x1001, .outOfRange)],
      (next? (step (State.reset.setPc p.1))).map (fun t => (t.fault, t.pc, t.faultDetail)) =
        some (some ⟨.fetchFault, none, p.1⟩, p.1, some (.fetchCause p.2)) := by decide

/-- B1.3 and B7.4: zeros decode to nothing. -/
theorem test_decode_error :
    (next? (step State.reset)).map (fun t => (t.fault, t.pc)) = some (some ⟨.decodeError, some 0, 0x200⟩, 0x202) := by
  decide

/-- B1.12: no step while halted, and a tick still works. -/
theorem test_halted :
    next? (step (State.reset.setFault (some ⟨.decodeError, some 0, 0x200⟩))) = none ∧
      ((State.reset.setDt 5).setFault (some ⟨.decodeError, some 0, 0x200⟩)).tick.dt = 4 := by decide

/-- P7: a step that faults. -/
theorem test_step_ret_empty :
    (next? (step (State.reset.withFetchWord 16 0x00EE))).map (fun t => (t.fault, t.pc)) =
      some (some ⟨.stackUnderflow, some 0x00EE, 0x200⟩, 0x202) := by decide

/-- `withFetchWord` on a halted state with an odd `PC` (log 21). -/
theorem test_with_fetch_word :
    (next? (step (((State.reset.setPc 0x0201).setFault (some ⟨.fetchFault, none, 0x0201⟩)).withFetchWord 16
      0xA123))).map (fun t => (t.i, t.pc, t.fault)) = some (0x0123, 0x202, none) := by decide

/-! ### Control transfer (`41_flow.md`) -/

/-- B2.5. -/
theorem test_ret : (next? (exec .ret (stacked 1))).map (fun t => (t.pc, t.stack)) = some (0x0202, []) := by decide

/-- B2.6. -/
theorem test_ret_empty : faultAfter .ret (stacked 0) = some (some ⟨.stackUnderflow, some 0x00EE, 0x200⟩) := by decide

/-- B2.1, B2.3. -/
theorem test_jp : pcAfter (.jp 0xABC) (regs []) = some 0x0ABC ∧ pcAfter (.jp 0x201) (regs []) = some 0x0201 := by decide

/-- B2.8: sixteen entries fit. -/
theorem test_call :
    (next? (exec (.call 0x300) (stacked 15))).map (fun t => (t.pc, t.sp, t.stack.head?)) =
      some (0x0300, 16, some 0x0202) := by decide

/-- B2.7; and R25: an unbounded stack takes the seventeenth entry, a stack of depth 1 no second one. -/
theorem test_call_full :
    (next? (exec (.call 0x300) (stacked 16))).map (fun t => (t.fault, t.pc, t.sp)) =
        some (some ⟨.stackOverflow, some 0x2300, 0x200⟩, 0x0202, 16) ∧
      (next? (exec (.call 0x300) ((stacked 16).setStackDepth none))).map (fun t => (t.fault, t.pc, t.sp)) =
        some (none, 0x0300, 17) ∧
      (next? (exec (.call 0x300) ((stacked 1).setStackDepth (some 1)))).map State.sp = some 1 := by decide

/-- B2.9, B2.10. -/
theorem test_seImm :
    pcAfter (.seImm 1 0x42) (regs [(1, 0x42)]) = some 0x204 ∧
      pcAfter (.seImm 1 0x42) (regs [(1, 0x41)]) = some 0x202 := by decide

/-- B2.11, B2.12. -/
theorem test_sneImm :
    pcAfter (.sneImm 1 0x42) (regs [(1, 0x41)]) = some 0x204 ∧
      pcAfter (.sneImm 1 0x42) (regs [(1, 0x42)]) = some 0x202 := by decide

/-- B2.13 to B2.15, B1.7. -/
theorem test_seReg :
    pcAfter (.seReg 1 2 1) (regs [(1, 3), (2, 3)]) = some 0x204 ∧
      pcAfter (.seReg 1 2 0) (regs [(1, 3), (2, 4)]) = some 0x202 ∧
      pcAfter (.seReg 1 1 0) (regs [(1, 7)]) = some 0x204 := by decide

/-- B2.16 to B2.18, B1.8. -/
theorem test_sneReg :
    pcAfter (.sneReg 1 2 0xF) (regs [(1, 3), (2, 4)]) = some 0x204 ∧
      pcAfter (.sneReg 1 2 0) (regs [(1, 3), (2, 3)]) = some 0x202 ∧
      pcAfter (.sneReg 1 1 0) (regs [(1, 7)]) = some 0x202 := by decide

/-- B2.19, B2.20. -/
theorem test_jpV0_quirk :
    pcAfter (.jpV0 0x300) (regs [(0, 0x10), (3, 0x20)]) = some 0x0310 ∧
      pcAfter (.jpV0 0x300) ((regs [(0, 0x10), (3, 0x20)]).setQuirkJump true) = some 0x0320 := by decide

/-- B2.21, B2.22. -/
theorem test_jpV0_top :
    pcAfter (.jpV0 0xFFF) (regs [(0, 0xFF)]) = some 0x10FE ∧
      pcAfter (.jpV0 0xFFF) ((regs [(15, 0xFF)]).setQuirkJump true) = some 0x10FE := by decide

/-! ### Arithmetic and logic (`42_alu.md`) -/

/-- B3.1, B3.2. -/
theorem test_ldImm :
    valuesAfter (.ldImm 10 0x42) (regs []) [10] = some [0x42] ∧
      valuesAfter (.ldImm 15 0x07) (regs [(15, 0x10)]) [15] = some [0x07] := by decide

/-- B3.3 to B3.5. -/
theorem test_addImm :
    valuesAfter (.addImm 3 0x01) (regs [(3, 0xFF)]) [3, 15] = some [0x00, 0] ∧
      valuesAfter (.addImm 3 0xFF) (regs [(3, 0x05)]) [3, 15] = some [0x04, 0] ∧
      valuesAfter (.addImm 15 0x05) (regs [(15, 0x10)]) [15] = some [0x15] := by decide

/-- B3.6. -/
theorem test_ldReg : valuesAfter (.ldReg 1 2) (regs [(1, 7), (2, 9)]) [1, 2] = some [9, 9] := by decide

/-- B3.7. -/
theorem test_orReg :
    valuesAfter (.orReg 1 2) (regs [(1, 0x0F), (2, 0xF0), (15, 1)]) [1, 15] = some [0xFF, 1] := by decide

/-- B3.8. -/
theorem test_andReg : valuesAfter (.andReg 1 2) (regs [(1, 0x3C), (2, 0x0F)]) [1] = some [0x0C] := by decide

/-- B3.9, B3.10. -/
theorem test_xorReg :
    valuesAfter (.xorReg 1 2) (regs [(1, 0xFF), (2, 0x0F)]) [1] = some [0xF0] ∧
      valuesAfter (.xorReg 1 1) (regs [(1, 0x5A)]) [1] = some [0] := by decide

/-- B3.11 to B3.14. -/
theorem test_addReg_carry :
    valuesAfter (.addReg 1 2) (regs [(1, 0x10), (2, 0x20), (15, 1)]) [1, 15] = some [0x30, 0] ∧
      valuesAfter (.addReg 1 2) (regs [(1, 0xFE), (2, 0x01)]) [1, 15] = some [0xFF, 0] ∧
      valuesAfter (.addReg 1 2) (regs [(1, 0x80), (2, 0x80)]) [1, 15] = some [0x00, 1] ∧
      valuesAfter (.addReg 1 1) (regs [(1, 0x90)]) [1, 15] = some [0x20, 1] := by decide

/-- B3.15 to B3.17. -/
theorem test_addReg_flag_operand :
    valuesAfter (.addReg 1 15) (regs [(1, 0xFF), (15, 0x01)]) [1, 15] = some [0x00, 1] ∧
      valuesAfter (.addReg 15 1) (regs [(15, 0xF0), (1, 0x20)]) [15] = some [0x10] ∧
      valuesAfter (.addReg 15 15) (regs [(15, 0x81)]) [15] = some [0x02] := by decide

/-- B3.18 to B3.21. -/
theorem test_subReg :
    valuesAfter (.subReg 1 2) (regs [(1, 5), (2, 3)]) [1, 15] = some [2, 1] ∧
      valuesAfter (.subReg 1 2) (regs [(1, 7), (2, 7)]) [1, 15] = some [0, 0] ∧
      valuesAfter (.subReg 1 2) (regs [(1, 0), (2, 1)]) [1, 15] = some [0xFF, 0] ∧
      valuesAfter (.subReg 1 1) (regs [(1, 5)]) [1, 15] = some [0, 0] := by decide

/-- B3.22, B3.23. -/
theorem test_subReg_flag_operand :
    valuesAfter (.subReg 1 15) (regs [(1, 0x0A), (15, 0x03)]) [1, 15] = some [0x09, 1] ∧
      valuesAfter (.subReg 15 1) (regs [(15, 0x09), (1, 0x03)]) [15] = some [0xFE] := by decide

/-- B3.24 to B3.26. -/
theorem test_shr :
    valuesAfter (.shr 1 2) (regs [(1, 0x05), (2, 0xAA)]) [1, 15, 2] = some [0x02, 1, 0xAA] ∧
      valuesAfter (.shr 1 2) ((regs [(1, 0x05), (2, 0xAA)]).setQuirkShift true) [1, 15, 2] = some [0x55, 0, 0xAA] ∧
      valuesAfter (.shr 1 2) (regs [(1, 0x01)]) [1, 15] = some [0, 1] := by decide

/-- B3.27, B3.28. -/
theorem test_shr_flag_operand :
    valuesAfter (.shr 15 2) (regs [(15, 0x03)]) [15] = some [0] ∧
      valuesAfter (.shr 1 15) ((regs [(15, 0x06)]).setQuirkShift true) [1, 15] = some [0x03, 0] := by decide

/-- B3.29 to B3.31. -/
theorem test_subnReg :
    valuesAfter (.subnReg 1 2) (regs [(1, 2), (2, 5)]) [1, 15] = some [3, 1] ∧
      valuesAfter (.subnReg 1 2) (regs [(1, 5), (2, 2)]) [1, 15] = some [0xFD, 0] ∧
      valuesAfter (.subnReg 1 2) (regs [(1, 4), (2, 4)]) [1, 15] = some [0, 0] := by decide

/-- B3.32, B3.33. -/
theorem test_subnReg_flag_operand :
    valuesAfter (.subnReg 1 15) (regs [(1, 0x02), (15, 0x09)]) [1, 15] = some [0xFF, 1] ∧
      valuesAfter (.subnReg 15 2) (regs [(15, 0x01), (2, 0x05)]) [15] = some [0x04] := by decide

/-- B3.34 to B3.36. -/
theorem test_shl :
    valuesAfter (.shl 1 2) (regs [(1, 0x81), (2, 0x40)]) [1, 15, 2] = some [0x02, 1, 0x40] ∧
      valuesAfter (.shl 1 2) ((regs [(1, 0x81), (2, 0x40)]).setQuirkShift true) [1, 15, 2] = some [0x80, 0, 0x40] ∧
      valuesAfter (.shl 1 2) (regs [(1, 0x40)]) [1, 15] = some [0x80, 0] := by decide

/-- B3.37, B3.38. -/
theorem test_shl_flag_operand :
    valuesAfter (.shl 15 15) (regs [(15, 0x80)]) [15] = some [0x02] ∧
      valuesAfter (.shl 15 2) (regs [(15, 0x40)]) [15] = some [0] := by decide

/-- B3.39 to B3.41: the draw is a free value, so the test fixes only the mask. -/
theorem test_rnd :
    (∀ s : State, exec (.rnd 1 0x0F) s = .next (s.setV 1 (s.drawRandom &&& 0x0F))) ∧
      (0xA7 : Byte) &&& 0x0F = 0x07 ∧ (0xA7 : Byte) &&& 0xFF = 0xA7 := ⟨fun _ => rfl, by decide, by decide⟩

/-! ### Index and memory (`43_index_memory.md`) -/

/-- B4.1. -/
theorem test_ldI : indexAfter (.ldI 0x123) (regs []) = some 0x0123 := by decide

/-- B4.2, B4.3, B4.3b. -/
theorem test_addI :
    indexAfter (.addI 1) ((regs [(1, 0x10)]).setI 0x0300) = some 0x0310 ∧
      indexAfter (.addI 1) ((regs [(1, 0x01)]).setI 0x0FFF) = some 0x1000 ∧
      indexAfter (.addI 1) ((regs [(1, 0x02)]).setI 0xFFFF) = some 0x0001 ∧
      valuesAfter (.addI 1) ((regs [(1, 0x01)]).setI 0x0FFF) [15] = some [0] := by decide

/-- B4.4, B4.4b. -/
theorem test_ldF :
    indexAfter (.ldF 1) (regs [(1, 0x0A)]) = some 0x0032 ∧
      indexAfter (.ldF 1) (regs [(1, 0xFF)]) = some 0x04FB := by decide

/-- B4.5 to B4.5c. -/
theorem test_ldB :
    bytesAfter (.ldB 1) ((regs [(1, 234)]).setI 0x0300) [0x300, 0x301, 0x302] = some [2, 3, 4] ∧
      bytesAfter (.ldB 1) ((regs [(1, 7)]).setI 0x0300) [0x300, 0x301, 0x302] = some [0, 0, 7] ∧
      bytesAfter (.ldB 1) ((regs [(1, 255)]).setI 0x0FFD) [0xFFD, 0xFFE, 0xFFF] = some [2, 5, 5] := by decide

/-- B4.6. -/
theorem test_ldB_bounds :
    (next? (exec (.ldB 1) ((regs [(1, 9)]).setI 0x0FFE))).map (fun t => (t.fault, t.pc, t.mem)) =
        some (some ⟨.memoryBoundsFault, some 0xF133, 0x200⟩, 0x202, []) ∧
      (next? (exec (.ldB 1) ((regs [(1, 9)]).setI 0x0FFE))).map State.faultDetail =
        some (some (.address 0x1000)) := by decide

/-- B4.7, B4.8, B4.8b. -/
theorem test_storeRegs :
    (next? (exec (.storeRegs 2) ((regs [(0, 1), (1, 2), (2, 3)]).setI 0x0300))).map (fun t => (t.mem, t.i)) =
        some ([(0x300, 1), (0x301, 2), (0x302, 3)], 0x0300) ∧
      indexAfter (.storeRegs 2) (((regs [(0, 1), (1, 2), (2, 3)]).setI 0x0300).setQuirkIndex true) = some 0x0303 ∧
      (next? (exec (.storeRegs 0) (((regs [(0, 0xAB)]).setI 0x0FFF).setQuirkIndex true))).map (fun t => (t.mem, t.i)) =
        some ([(0xFFF, 0xAB)], 0x1000) := by decide

/-- B4.8c. -/
theorem test_storeRegs_bounds :
    (next? (exec (.storeRegs 1) ((regs [(0, 1), (1, 2)]).setI 0x0FFF))).map (fun t => (t.fault, t.mem, t.i)) =
      some (some ⟨.memoryBoundsFault, some 0xF155, 0x200⟩, [], 0x0FFF) := by decide

/-- B4.9, B4.10. -/
theorem test_loadRegs :
    valuesAfter (.loadRegs 2) (regsMem [(3, 9)] 0x0300 [(0x300, 2), (0x301, 3), (0x302, 4), (0x303, 5)]) [0, 1, 2, 3] =
        some [2, 3, 4, 9] ∧
      indexAfter (.loadRegs 2) (regsMem [] 0x0300 []) = some 0x0300 ∧
      indexAfter (.loadRegs 2) ((regsMem [] 0x0300 []).setQuirkIndex true) = some 0x0303 := by decide

/-- B4.12. -/
theorem test_loadRegs_bounds :
    (next? (exec (.loadRegs 0) (regsMem [(0, 7)] 0x1000 []))).map (fun t => (t.fault, t.getV 0)) =
      some (some ⟨.memoryBoundsFault, some 0xF065, 0x200⟩, 7) := by decide

/-! ### Display (`44_display.md`) -/

/-- B5.1. -/
theorem test_cls : cellsAfter .cls ((regs [(15, 1)]).flipCell 330) [330, 0] = some ([0, 0], 1) := by decide

set_option maxRecDepth 2048 in
/-- B5.2 and B5.3: a sprite runs on into the next row, and from the last cell to the first. -/
theorem test_drw_wrap :
    cellsAfter (.drw 0 1 1) (regsMem [(0, 62)] 0x300 [(0x300, 0xFF)]) [61, 62, 63, 64, 69, 70] =
        some ([0, 1, 1, 1, 1, 0], 0) ∧
      cellsAfter (.drw 0 1 1) (regsMem [(0, 60), (1, 31)] 0x300 [(0x300, 0xFF)]) [2043, 2044, 2047, 0, 3, 4] =
        some ([0, 1, 1, 1, 1, 0], 0) := by decide

/-- B5.5 and B5.8: a collision, and the order of the bits. -/
theorem test_drw_collision :
    cellsAfter (.drw 0 1 1) ((regsMem [(0, 10), (1, 5)] 0x300 [(0x300, 0xC0)]).flipCell 330) [330, 331, 332] =
        some ([0, 1, 0], 1) ∧
      cellsAfter (.drw 0 1 1) (regsMem [] 0x300 [(0x300, 0x01)]) [0, 6, 7, 8] = some ([0, 0, 1, 0], 0) := by decide

/-! ### Keypad and timers (`45_keypad_timers.md`) -/

/-- B6.1, B6.2, B6.7: whatever the key does. -/
theorem test_skp :
    exec (.skp 1) (regs [(1, 5)]) = .next ((regs [(1, 5)]).skipIf ((regs [(1, 5)]).drawKeyPressed 5)) ∧
      exec (.skp 1) (regs [(1, 15)]) = .next ((regs [(1, 15)]).skipIf ((regs [(1, 15)]).drawKeyPressed 15)) :=
  ⟨rfl, rfl⟩

/-- B6.5. -/
theorem test_skp_index :
    (next? (exec (.skp 1) (regs [(1, 0x10)]))).map (fun t => (t.fault, t.faultDetail)) =
      some (some ⟨.keyIndexFault, some 0xE19E, 0x200⟩, some (.keyValue 0x10)) := by decide

/-- B6.3, B6.4: the complement. -/
theorem test_sknp :
    exec (.sknp 1) (regs [(1, 5)]) = .next ((regs [(1, 5)]).skipIf (!(regs [(1, 5)]).drawKeyPressed 5)) := rfl

/-- B6.6: the value is not masked to 5. -/
theorem test_sknp_index :
    faultAfter (.sknp 1) (regs [(1, 0x15)]) = some (some ⟨.keyIndexFault, some 0xE1A1, 0x200⟩) := by decide

/-- B6.8. -/
theorem test_ldVxDt : valuesAfter (.ldVxDt 1) ((regs []).setDt 0x2A) [1] = some [0x2A] := by decide

/-- B6.14, B6.16, B6.17: each answer of the event draw. -/
theorem test_ldVxK_answers :
    ((regs []).awaitKey 3 none).pc = 0x200 ∧ ((regs []).awaitKey 3 none).wait = some 3 ∧
      (((regs [(3, 9)]).setWait (some 3)).awaitKey 3 (some 0)).getV 3 = 0 ∧
      (((regs [(3, 9)]).setWait (some 3)).awaitKey 3 (some 0)).wait = none ∧
      ((regs []).awaitKey 15 (some 15)).getV VF = 0x0F ∧ ((regs []).awaitKey 15 (some 15)).pc = 0x202 := by decide

/-- The draw of FX0A is the step's own. -/
theorem test_ldVxK : ∀ s : State, exec (.ldVxK 3) s = .next (s.awaitKey 3 s.drawKeyEvent) := fun _ => rfl

/-- B6.9. -/
theorem test_ldDtVx : (next? (exec (.ldDtVx 1) (regs [(1, 0x3C)]))).map State.dt = some 0x3C := by decide

/-- B6.10. -/
theorem test_ldStVx :
    (next? (exec (.ldStVx 1) (regs [(1, 5)]))).map (fun t => (t.st, t.soundOn)) = some (5, true) := by decide

/-- A7, B6.11 to B6.13. -/
theorem test_ticks :
    ((State.reset.setDt 5).ticks 4).dt = 1 ∧ ((State.reset.setDt 5).ticks 5).dt = 0 ∧
      ((State.reset.setDt 5).ticks 6).dt = 0 ∧ ((State.reset.setSt 2).tick).soundOn = true ∧
      ((State.reset.setSt 2).tick.tick).soundOn = false := by decide

/-! ### The host's operations (`70_reset_and_hazards.md`) -/

/-- B7.1, B6.18: the parameters stay, all else goes back. -/
theorem test_reset :
    hostReset ((((regs [(3, 9)]).setWait (some 3)).setQuirkShift true).setStackDepth none) =
      (State.reset.setQuirkShift true).setStackDepth none := by decide

set_option maxRecDepth 4096 in
/-- B7.2. -/
theorem test_load :
    ∃ t, hostLoad Config.fontDefault [0x12, 0x00] State.reset = .ok t ∧
      [0, 1, 2, 3, 4, 75, 76, 77, 78, 79, 80, 0x200, 0x201, 0x202].map t.readByte =
        [0xF0, 0x90, 0x90, 0x90, 0xF0, 0xF0, 0x80, 0xF0, 0x80, 0x80, 0, 0x12, 0x00, 0] :=
  ⟨_, rfl, by decide⟩

/-- R241: the numeric codes. -/
theorem test_fault_codes :
    [FaultKind.decodeError, .executionError, .stackUnderflow, .capacityError, .stackOverflow, .fetchFault,
      .memoryBoundsFault, .keyIndexFault].map FaultKind.code = [1, 2, 3, 4, 5, 6, 7, 8] := by decide

/-- R259: the display port reads 0 or 1. -/
theorem test_read_disp : (State.reset.flipCell 134).readDisp 134 = 1 ∧ State.reset.readDisp 134 = 0 := by decide

/-! ### Values that meet the hypotheses of the statements -/

/-- A word that decodes, for `EncodeOfDecode` and (its row selected) `SelectedRowDecodes`. -/
theorem meets_decode : decode 0x8124 = some (.addReg 1 2) ∧
    (0x8124 : Word) &&& (opRow (.addReg 0 0)).mask = (opRow (.addReg 0 0)).pattern := by decide

/-- A successful load, for `FetchIsBigEndian` (its first word, `2 * 0 + 1 < 2`) and the last clause of `HaltedUntilReset`. -/
theorem meets_load_ok : (∃ t, hostLoad Config.fontDefault [0x12, 0x34] State.reset = .ok t) ∧
    2 * 0 + 1 < [0x12, 0x34].length := ⟨⟨_, rfl⟩, by decide⟩

/-- The longest image, for `LoadPlacesFontAndImage`, and one byte more, for `LongImageIsRejected`. -/
theorem meets_image_lengths : (List.replicate 3584 (0x6A : Byte)).length ≤ 3584 ∧
    (List.replicate 3585 (0x6A : Byte)).length > 3584 := by
  simp only [List.length_replicate]
  decide

/-- The address ranges of `LoadPlacesFontAndImage` at their ends, an image of two bytes. -/
theorem meets_load_ranges : 79 < 80 ∧ 1 < [0x12, 0x00].length ∧ (80 ≤ 80 ∧ 80 < 0x200) ∧ (80 ≤ 0x1FF ∧ 0x1FF < 0x200) ∧
    (80 ≤ 0x202 ∧ 0x200 + [0x12, 0x00].length ≤ 0x202) := by decide

/-- An instruction that is neither FX15 nor FX18 and has a next state, for `DelayTimer`, `SoundTimer`,
`OnlySixInstructionsWriteFlag` and `DisplayIsReadForCollisionOnly`. -/
theorem meets_other_instruction : (∃ t, exec .cls State.reset = .next t) ∧ (∀ x, Instr.cls ≠ .ldDtVx x) ∧
    ∀ x, Instr.cls ≠ .ldStVx x := ⟨⟨_, rfl⟩, nofun, nofun⟩

/-- The last legal fetch address, for `StepRunsDecodedInstruction`. -/
def atLastWord : State := (State.reset.setPc 0x0FFE).withFetchWord 16 0x6A42

theorem meets_step : atLastWord.fault = none ∧ atLastWord.pc.toNat ≤ 0x0FFE ∧ atLastWord.pc.toNat % 2 = 0 ∧
    decode (joinBytes (atLastWord.readByte atLastWord.pc.toNat) (atLastWord.readByte (atLastWord.pc.toNat + 1))) =
      some (.ldImm 10 0x42) := by decide

/-- Each reason of `BadFetchFaults` on its own, and both together. -/
theorem meets_bad_fetch : (State.reset.setPc 0x1000).fault = none ∧ (State.reset.setPc 0x1000).pc.toNat > 0x0FFE ∧
    (State.reset.setPc 0x0201).pc.toNat % 2 = 1 ∧ (State.reset.setPc 0x0201).pc.toNat ≤ 0x0FFE ∧
    (State.reset.setPc 0x1001).pc.toNat > 0x0FFE ∧ (State.reset.setPc 0x1001).pc.toNat % 2 = 1 := by decide

/-- Zeros at the last legal fetch address, for `IllegalWordFaults`. -/
theorem meets_illegal_word : (State.reset.setPc 0x0FFE).fault = none ∧ (State.reset.setPc 0x0FFE).pc.toNat ≤ 0x0FFE ∧
    (State.reset.setPc 0x0FFE).pc.toNat % 2 = 0 ∧ decode (State.reset.setPc 0x0FFE).fetchWord = none := by decide

/-- A step that latches a fault of execute, and one of decode, for `FaultsArePrecise`. -/
theorem meets_precise :
    (∃ t r, step (State.reset.withFetchWord 16 0x00EE) = .next t ∧ t.fault = some r ∧ r.kind ≠ .fetchFault) ∧
      ∃ t r, step State.reset = .next t ∧ t.fault = some r ∧ r.kind ≠ .fetchFault :=
  ⟨⟨_, _, rfl, rfl, by decide⟩, ⟨_, _, rfl, rfl, by decide⟩⟩

/-- A halted state, and a host action that is neither a reset nor a load, for `HaltedUntilReset`. -/
theorem meets_halted : (State.reset.setFault (some ⟨.decodeError, some 0, 0x200⟩)).fault =
    some ⟨.decodeError, some 0, 0x200⟩ ∧ HostAction.tick ≠ .reset ∧
    ∀ font image, HostAction.tick ≠ .load font image := ⟨rfl, nofun, nofun⟩

/-- A waiting machine with a call behind it, for `StepKeepsInvariant` and `HostActionsKeepInvariant`. -/
def waitingState : State := ((State.reset.withFetchWord 16 0xF30A).setStack [0x0300]).setWait (some 3)

theorem meets_invariant : waitingState.Inv ∧ ∃ t, step waitingState = .next t := by
  refine ⟨⟨by decide, by decide, ?_, by decide, ?_, nofun⟩, _, rfl⟩
  · intro w hw
    obtain rfl : w = 0x0300 := by simpa [waitingState] using hw
    decide
  · intro x hx
    obtain rfl : 3 = x := by simpa [waitingState] using hx
    decide

/-- The last clause of `HostActionsKeepInvariant`'s premise: a font load with no wait pending, and any other action
with one. -/
theorem meets_host_action :
    ((∃ font, HostAction.loadFontset Config.fontDefault = .loadFontset font) → State.reset.wait = none) ∧
      ((∃ font, HostAction.tick = .loadFontset font) → waitingState.wait = none) :=
  ⟨fun _ => rfl, nofun⟩

/-- The instructions that can fault, at the last operands at which they do not, for
`ExecuteChangesOnlyWhatItWrites`. -/
theorem meets_no_fault :
    faultOf (stacked 1) .ret = none ∧ faultOf (stacked 15) (.call 0x300) = none ∧
      faultOf (regsMem [] 0x0FFD []) (.drw 0 1 3) = none ∧ faultOf (regsMem [] 0xFFFF []) (.drw 0 1 0) = none ∧
      faultOf (regs [(1, 15)]) (.skp 1) = none ∧ faultOf (regs [(1, 15)]) (.sknp 1) = none ∧
      faultOf (regsMem [] 0x0FFD []) (.ldB 1) = none ∧ faultOf (regsMem [] 0x0FF0 []) (.storeRegs 15) = none ∧
      faultOf (regsMem [] 0x0FF0 []) (.loadRegs 15) = none := by decide

/-- The same at the first operands at which they do, for `ExecuteRaisesWhatItsRuleSays`. -/
theorem meets_fault :
    faultOf (stacked 0) .ret = some .stackUnderflow ∧ faultOf (stacked 16) (.call 0x300) = some .stackOverflow ∧
      faultOf (regsMem [] 0x0FFE []) (.drw 0 1 3) = some .memoryBoundsFault ∧
      faultOf (regs [(1, 16)]) (.skp 1) = some .keyIndexFault ∧
      faultOf (regs [(1, 16)]) (.sknp 1) = some .keyIndexFault ∧
      faultOf (regsMem [] 0x0FFE []) (.ldB 1) = some .memoryBoundsFault ∧
      faultOf (regsMem [] 0x0FF1 []) (.storeRegs 15) = some .memoryBoundsFault ∧
      faultOf (regsMem [] 0x0FF1 []) (.loadRegs 15) = some .memoryBoundsFault := by decide

/-- An empty stack and one with an entry, for `ReturnPops` (with the invariant: `meets_invariant`). -/
theorem meets_return : (stacked 0).stack = [] ∧ (stacked 1).stack = 0x0202 :: [] := by decide

/-- The last call that fits and the first that does not, and an unbounded stack, for `CallPushesReturnAddress` and
`CallThenReturn`. -/
theorem meets_call : (stacked 15).stackDepth ≠ some (stacked 15).stack.length ∧
    (stacked 16).stackDepth = some (stacked 16).stack.length ∧
    ((stacked 16).setStackDepth none).stackDepth ≠ some ((stacked 16).setStackDepth none).stack.length := by decide

/-- A later state with the stack as the call left it, for `CallThenReturn`. -/
theorem meets_call_return : ∃ t, exec (.call 0x300) (stacked 15) = .next t ∧
    (State.reset.setStack t.stack).stack = t.stack := ⟨_, rfl, rfl⟩

/-- Registers that are not `VF`, and `VF`, for the clauses of the add, subtract and shift statements and for
`DrawTwiceRestores`. -/
theorem meets_not_flag : (1 : Reg) ≠ VF ∧ (15 : Reg) = VF := by decide

/-- A jump to itself, for `IdleLoopStays` (B2.2). -/
theorem meets_idle : (State.reset.withFetchWord 16 0x1200).fault = none ∧
    (State.reset.withFetchWord 16 0x1200).pc.toNat = (0x200 : Addr).toNat ∧ (0x200 : Addr).toNat ≤ 0x0FFE ∧
    (0x200 : Addr).toNat % 2 = 0 ∧ (State.reset.withFetchWord 16 0x1200).fetchWord = encode (.jp 0x200) := by decide

/-- Highest legal `I` and one above it, for `StoreDecimalDigits`, `StoreRegisters`, `LoadRegisters`,
`IndexAfterTransfer` and `StoreThenLoad`. -/
theorem meets_bounds : (regsMem [] 0x0FFD []).i.toNat + 2 ≤ 4095 ∧ (regsMem [] 0x0FFE []).i.toNat + 2 > 4095 ∧
    (regsMem [] 0x0FF0 []).i.toNat + (15 : Reg).val ≤ 4095 ∧ (regsMem [] 0x0FF1 []).i.toNat + (15 : Reg).val > 4095 ∧
    (regsMem [] 0x0FFF []).i.toNat + (0 : Reg).val ≤ 4095 ∧ (regsMem [] 0x1000 []).i.toNat + (0 : Reg).val > 4095 := by
  decide

/-- A later state with the memory the store left and the same `I`, for `StoreThenLoad`, the quirk on or off. -/
theorem meets_store_load : ∃ t, exec (.storeRegs 1) (regsMem [(0, 7), (1, 8)] 0x0300 []) = .next t ∧
    ((State.reset.setMem t.mem).setI 0x0300).mem = t.mem ∧
    ((State.reset.setMem t.mem).setI 0x0300).i = (regsMem [(0, 7), (1, 8)] 0x0300 []).i := ⟨_, rfl, rfl, rfl⟩

/-- P5: two registers stored where the next fetch reads, for `StoreIsFetchedNext`. -/
theorem meets_store_fetch : (regsMem [] 0x0202 []).i.toNat + (1 : Reg).val ≤ 4095 ∧ (1 : Reg) ≤ 1 ∧
    (1 : Reg).val = (0 : Reg).val + 1 ∧ (regsMem [] 0x0202 []).pc.toNat = (regsMem [] 0x0202 []).i.toNat + (0 : Reg).val := by
  decide

/-- Highest legal `I` for a sprite, no rows at all, and one row too many, for `DrawSprite`, `DrawPastMemoryFaults` and
`DrawTwiceRestores`. -/
theorem meets_draw_bounds : (regsMem [] 0x0FFD []).i.toNat + (3 : Nibble).toNat ≤ 4096 ∧ (0 : Nibble) = 0 ∧
    (3 : Nibble) ≠ 0 ∧ (regsMem [] 0x0FFE []).i.toNat + (3 : Nibble).toNat > 4096 := by decide

/-- One set bit at column 10, row 5 (A5). -/
def oneDot : State := regsMem [(0, 10), (1, 5)] 0x0300 [(0x300, 0x80)]

/-- A cell under the sprite that is off, and one that is on, and a cell not under it, for `DrawSprite` and
`DrawTwiceRestores`. -/
theorem meets_under_sprite :
    (oneDot.underSprite (oneDot.getV 0) (oneDot.getV 1) 1 330 ∧ oneDot.cell 330 = 0) ∧
      ((oneDot.flipCell 330).underSprite (oneDot.getV 0) (oneDot.getV 1) 1 330 ∧ (oneDot.flipCell 330).cell 330 = 1) ∧
      ¬ oneDot.underSprite (oneDot.getV 0) (oneDot.getV 1) 1 331 := by
  refine ⟨⟨⟨0, 0, by decide, by decide, by decide, by decide⟩, by decide⟩,
    ⟨⟨0, 0, by decide, by decide, by decide, by decide⟩, by decide⟩, ?_⟩
  rintro ⟨r, c, hr, hc, hbit, hk⟩
  obtain rfl : r = 0 := by omega
  interval_cases c <;> revert hbit hk <;> decide

/-- No cell under the sprite is on, for the other clause of `DrawSprite`: a blank display. -/
theorem meets_no_collision :
    ¬ ∃ k, oneDot.underSprite (oneDot.getV 0) (oneDot.getV 1) 1 k ∧ oneDot.cell k = 1 := by
  rintro ⟨k, -, h⟩
  have off : oneDot.disp = Vector.replicate 32 0 := by decide
  simp [State.cell, off] at h

/-- The highest key and one above it, for `KeySkips`. -/
theorem meets_keys : ((regs [(1, 15)]).getV 1).toNat = (15 : Key).val ∧ ((regs [(1, 16)]).getV 1).toNat > 15 := by decide

/-- An FX0A at the entry point, for `WaitHoldsTheProgramCounter`. -/
theorem meets_wait : (State.reset.withFetchWord 16 0xF30A).fault = none ∧
    (State.reset.withFetchWord 16 0xF30A).pc.toNat ≤ 0x0FFE ∧ (State.reset.withFetchWord 16 0xF30A).pc.toNat % 2 = 0 ∧
    (State.reset.withFetchWord 16 0xF30A).fetchWord = encode (.ldVxK 3) := by decide

end Sys2Proof.Tests
end

section
/-! PROOF. A word that decodes is the encoding of its instruction (`30_encoding.md` R84, R85). -/

namespace Sys2Proof

theorem encode_of_decodeGroup0 {w : Word} {i : Instr} (h : decodeGroup0 w = some i) : encode i = w := by
  unfold decodeGroup0 at h
  split at h
  · next hw => cases h; exact hw.symm
  · split at h
    · next hw => cases h; exact hw.symm
    · cases h

theorem encode_of_decodeGroup8 {w : Word} {i : Instr} (hg : opG w = 0x8#4) (h : decodeGroup8 w = some i) :
    encode i = w := by
  have hw := group_reg_reg_eq w
  rw [hg] at hw
  unfold decodeGroup8 at h
  split at h <;> cases h <;> next hn => rw [hn] at hw; exact hw

theorem encode_of_decodeGroupE {w : Word} {i : Instr} (hg : opG w = 0xE#4) (h : decodeGroupE w = some i) :
    encode i = w := by
  have hw := group_reg_byte_eq w
  rw [hg] at hw
  unfold decodeGroupE at h
  split at h <;> cases h <;> next hn => rw [hn] at hw; exact hw

theorem encode_of_decodeGroupF {w : Word} {i : Instr} (hg : opG w = 0xF#4) (h : decodeGroupF w = some i) :
    encode i = w := by
  have hw := group_reg_byte_eq w
  rw [hg] at hw
  unfold decodeGroupF at h
  split at h <;> cases h <;> next hn => rw [hn] at hw; exact hw

/-- No bit of a word is lost by decoding (R84, R85). -/
theorem encode_of_decode {w : Word} {i : Instr} (h : decode w = some i) : encode i = w := by
  have addr := group_addr_eq w
  have byte := group_reg_byte_eq w
  have regs := group_reg_reg_eq w
  unfold decode at h
  split at h
  case h_1 => exact encode_of_decodeGroup0 h
  case h_9 hg => exact encode_of_decodeGroup8 hg h
  case h_15 hg => exact encode_of_decodeGroupE hg h
  case h_16 =>
    have hg : opG w = 0xF#4 := by
      simp only [imp_false] at *
      bv_omega
    exact encode_of_decodeGroupF hg h
  case h_2 hg | h_3 hg | h_11 hg | h_12 hg => cases h; rw [hg] at addr; exact addr
  case h_4 hg | h_5 hg | h_7 hg | h_8 hg | h_13 hg => cases h; rw [hg] at byte; exact byte
  case h_6 hg | h_10 hg | h_14 hg => cases h; rw [hg] at regs; exact regs
/-- FX0A is the decoding of its own word (R84, R85). -/
theorem decode_encode_ldVxK (x : Reg) : decode (encode (.ldVxK x)) = some (.ldVxK x) := by
  simp [decode, encode, decodeGroupF]

end Sys2Proof
end

section
/-! PROOF. What executing an instruction can do, said once for all 34 of them. -/

namespace Sys2Proof.Machine

/-- The states an instruction can lead to, sorted by the pieces that change. `s` is the state it executes in, so `PC` is
already past the word (R112). -/
inductive Effect (i : Instr) (s : State) : State → Prop
  /-- Registers of the "Writes" line, `I` and the display. -/
  | data (v : Vector Byte 16) (w : Word) (d : Vector Row 32)
      (hv : ∀ r, ¬ mayWrite s i (.v r) → v[r] = s.v[r]) : Effect i s { s with v := v, i := w, disp := d }
  /-- FX15. -/
  | delay (x : Reg) (hi : i = .ldDtVx x) : Effect i s (s.setDt (s.getV x))
  /-- FX18. -/
  | sound (x : Reg) (hi : i = .ldStVx x) : Effect i s (s.setSt (s.getV x))
  /-- Stores inside the memory, and `I`. -/
  | store (m : Memory) (w : Word) (hm : Memory.wf s.mem → Memory.wf m) : Effect i s { s with mem := m, i := w }
  /-- A jump or a skip. -/
  | branch (w : Word) (hw : s.pc.toNat ≤ 0x1000 → w.toNat ≤ 0x10FE) : Effect i s (s.setPc w)
  /-- 2NNN on a stack that is not full. -/
  | call (nnn : Addr) (hfull : s.stackDepth ≠ some s.sp) :
      Effect i s ((s.setStack (s.pc :: s.stack)).setPc (zextAddr nnn))
  /-- 00EE on a stack with an entry. -/
  | ret (w : Word) (rest : List Word) (hstack : s.stack = w :: rest) : Effect i s ((s.setStack rest).setPc w)
  /-- FX0A. -/
  | await (x : Reg) (hi : i = .ldVxK x) : Effect i s (s.awaitKey x s.drawKeyEvent)
  /-- A fault of execute (R242). -/
  | fault (kind : FaultKind) (hk : kind ∉ [.executionError, .capacityError, .fetchFault]) :
      Effect i s (s.takeFault kind (some (encode i)) (s.pc - 2))

/-- Only general registers of the "Writes" line are not as they were. -/
structure WritesRegs (i : Instr) (s t : State) : Prop where
  shape : ∃ v, t = { s with v := v }
  regs : ∀ r, ¬ mayWrite s i (.v r) → t.getV r = s.getV r

theorem WritesRegs.refl (i : Instr) (s : State) : WritesRegs i s s := ⟨⟨_, rfl⟩, fun _ _ => rfl⟩

theorem WritesRegs.setV {i : Instr} {s t : State} (h : WritesRegs i s t) {x : Reg} (hx : mayWrite s i (.v x)) (b : Byte) :
    WritesRegs i s (t.setV x b) := by
  obtain ⟨⟨v, rfl⟩, regs⟩ := h
  refine ⟨⟨_, rfl⟩, fun r hr => ?_⟩
  have hne : r ≠ x := fun e => hr (e ▸ hx)
  rw [State.getV_setV, if_neg hne, regs r hr]

theorem WritesRegs.shiftSource {i : Instr} {s : State} {x : Reg} (hx : mayWrite s i (.v x)) (y : Reg) :
    WritesRegs i s (s.shiftSource x y) := by
  rw [State.shiftSource_eq]
  split
  · exact (WritesRegs.refl i s).setV hx _
  · exact .refl i s

theorem WritesRegs.loadRegs (x : Reg) (s : State) :
    WritesRegs (.loadRegs x) s ((regsTo x).foldl State.loadReg s) := by
  refine ⟨loadRegs_eq_v _ s, fun r hr => ?_⟩
  have hmem : r ∉ regsTo x := fun h => hr (.inl ⟨r, mem_regsTo.1 h, rfl⟩)
  rw [loadRegs_getV, if_neg hmem]

theorem WritesRegs.setI_effect {i : Instr} {s t : State} (h : WritesRegs i s t) (w : Word) : Effect i s (t.setI w) := by
  obtain ⟨⟨v, rfl⟩, regs⟩ := h
  exact .data v w s.disp regs

theorem WritesRegs.effect {i : Instr} {s t : State} (h : WritesRegs i s t) : Effect i s t := h.setI_effect t.i

/-- A register and the flag, in the order flag, register (R163). -/
theorem Effect.flag_reg {i : Instr} {s t : State} (h : WritesRegs i s t) {x : Reg} (hf : mayWrite s i (.v VF))
    (hx : mayWrite s i (.v x)) (f b : Byte) : Effect i s ((t.setV VF f).setV x b) :=
  ((h.setV hf f).setV hx b).effect

theorem Effect.reg {i : Instr} {s : State} {x : Reg} (hx : mayWrite s i (.v x)) (b : Byte) : Effect i s (s.setV x b) :=
  ((WritesRegs.refl i s).setV hx b).effect

theorem Effect.index (i : Instr) (s : State) (w : Word) : Effect i s (s.setI w) := (WritesRegs.refl i s).setI_effect w

/-- A skip from an address that can be fetched leads at most to 0x1002 (R138). -/
theorem Effect.skipIf (i : Instr) (s : State) (b : Bool) : Effect i s (s.skipIf b) := by
  rw [State.skipIf_eq]
  refine .branch _ fun h => ?_
  cases b with
  | true =>
    have : (s.pc + 2).toNat = (s.pc.toNat + 2) % 65536 := BitVec.toNat_add ..
    simp only [if_true]
    omega
  | false => exact h.trans (by decide)

theorem Effect.jump (i : Instr) (s : State) (nnn : Addr) : Effect i s (s.setPc (zextAddr nnn)) := by
  refine .branch _ fun _ => ?_
  have := nnn.isLt
  rw [zextAddr_toNat]
  omega

/-- The sum of BNNN is at most 255 + 0xFFF = 0x10FE (R24, R137). -/
theorem Effect.jumpSum (i : Instr) (s : State) (b : Byte) (nnn : Addr) :
    Effect i s (s.setPc (zextByte b + zextAddr nnn)) := by
  refine .branch _ fun _ => ?_
  have := nnn.isLt
  have := b.isLt
  rw [BitVec.toNat_add, zextByte_toNat, zextAddr_toNat]
  omega

/-- The three stores of FX33 stay inside the memory when the highest address does (R183). -/
theorem storeDigits_wf {s : State} (h : Memory.wf s.mem) (hb : s.i.toNat + 2 ≤ 4095) (b : Byte) :
    Memory.wf (s.storeDigits b).mem := by
  have inside : ∀ j ≤ 2, s.i.toNat + j < Config.memSize := fun j hj => by
    simp only [Config.memSize]
    omega
  exact Memory.wf_write (Memory.wf_write (Memory.wf_write h (inside 0 (by omega)) _) (inside 1 (by omega)) _)
    (inside 2 (by omega)) _

theorem Effect.storeRegs (x : Reg) {s : State} (hb : s.i.toNat + x.val ≤ 4095) :
    Effect (.storeRegs x) s (((regsTo x).foldl State.storeReg s).indexAfter x) := by
  have wf : Memory.wf s.mem → Memory.wf ((regsTo x).foldl State.storeReg s).mem := fun h =>
    storeRegs_wf _ s h fun r hr => by
      have : r.val ≤ x.val := mem_regsTo.1 hr
      simp only [Config.memSize]
      omega
  obtain ⟨m, hm⟩ := storeRegs_eq_setMem (regsTo x) s
  rw [State.indexAfter_eq, hm]
  rw [hm] at wf
  exact .store m _ wf

theorem Effect.drw (x y : Reg) (n : Nibble) (s : State) :
    Effect (.drw x y n) s (s.drawSprite (s.getV x) (s.getV y) n.toNat) := by
  obtain ⟨v, d, hs, hv⟩ := drawSprite_shape s (s.getV x) (s.getV y) n.toNat
  rw [hs] at hv ⊢
  exact .data v s.i d fun r hr => hv r fun e => hr (.inl (congrArg Piece.v e))

/-- An access of memory that is checked first: a bounds fault, or the effect of the access inside the memory (R60). -/
theorem Effect.bounded {i : Instr} {s t : State} {past : Bool} (h : past = false → Effect i s t) :
    ∃ u, (if past then raise .memoryBoundsFault i s else .next t) = .next u ∧ Effect i s u := by
  cases past with
  | true => exact ⟨_, rfl, .fault _ (by decide)⟩
  | false => exact ⟨t, rfl, h rfl⟩

/-- Everything an instruction can do (R113, R242): it always answers a next state, one of `Effect`. -/
theorem exec_effect (i : Instr) (s : State) : ∃ t, exec i s = .next t ∧ Effect i s t := by
  cases i with
  | cls => exact ⟨_, rfl, .data s.v s.i _ fun _ _ => rfl⟩
  | ret =>
    simp only [exec, execRet]
    rcases s.pop_cases with ⟨-, hp⟩ | ⟨w, rest, hs, hp⟩ <;> rw [hp]
    · exact ⟨_, rfl, .fault _ (by decide)⟩
    · exact ⟨_, rfl, .ret w rest hs⟩
  | jp nnn => exact ⟨_, rfl, .jump _ s nnn⟩
  | call nnn =>
    simp only [exec, execCall]
    rcases s.push_cases s.pc with ⟨-, hp⟩ | ⟨hd, hp⟩ <;> rw [hp]
    · exact ⟨_, rfl, .fault _ (by decide)⟩
    · exact ⟨_, rfl, .call nnn hd⟩
  | seImm | sneImm | seReg | sneReg => exact ⟨_, rfl, .skipIf _ s _⟩
  | ldImm | addImm | ldReg | orReg | andReg | xorReg | rnd | ldVxDt => exact ⟨_, rfl, .reg (by simp [mayWrite]) _⟩
  | addReg | subReg | subnReg => exact ⟨_, rfl, .flag_reg (.refl _ s) (by simp [mayWrite]) (by simp [mayWrite]) _ _⟩
  | shr x y | shl x y =>
    exact ⟨_, rfl, .flag_reg (.shiftSource (x := x) (by simp [mayWrite]) y) (by simp [mayWrite]) (by simp [mayWrite]) _ _⟩
  | ldI | addI | ldF => exact ⟨_, rfl, .index _ s _⟩
  | jpV0 nnn => exact ⟨_, rfl, .jumpSum _ s _ nnn⟩
  | drw x y n => exact Effect.bounded fun _ => .drw x y n s
  | skp x =>
    simp only [exec, execSkp]
    cases keyOf (s.getV x) with
    | none => exact ⟨_, rfl, .fault _ (by decide)⟩
    | some k => exact ⟨_, rfl, .skipIf _ s _⟩
  | sknp x =>
    simp only [exec, execSknp]
    cases keyOf (s.getV x) with
    | none => exact ⟨_, rfl, .fault _ (by decide)⟩
    | some k => exact ⟨_, rfl, .skipIf _ s _⟩
  | ldVxK x => exact ⟨_, rfl, .await x rfl⟩
  | ldDtVx x => exact ⟨_, rfl, .delay x rfl⟩
  | ldStVx x => exact ⟨_, rfl, .sound x rfl⟩
  | ldB x =>
    refine Effect.bounded fun hp => .store _ s.i fun h => ?_
    exact storeDigits_wf h ((s.pastMemory_eq_false_iff 2).1 hp) (s.getV x)
  | storeRegs x => exact Effect.bounded fun hp => .storeRegs x ((s.pastMemory_eq_false_iff x.val).1 hp)
  | loadRegs x =>
    refine Effect.bounded fun _ => ?_
    rw [State.indexAfter_eq]
    exact (WritesRegs.loadRegs x s).setI_effect _

theorem effect_of_exec {i : Instr} {s t : State} (h : exec i s = .next t) : Effect i s t := by
  obtain ⟨u, hu, he⟩ := exec_effect i s
  obtain rfl : u = t := Host.Outcome.next.inj (hu.symm.trans h)
  exact he

end Sys2Proof.Machine
end

section
/-! PROOF. The invariant of R35: at reset, over the host's actions, over a step. -/

namespace Sys2Proof.Machine

/-- With no wait pending, memory may change within its canonical form. -/
theorem State.Inv.setMem {s : State} (h : s.Inv) (hw : s.wait = none) {m : Memory} (hm : Memory.wf m) :
    (s.setMem m).Inv :=
  { h with memory := hm, waiting := fun _ hx => nomatch hw.symm.trans hx }

/-- With no wait pending, `PC` may move within its bound. -/
theorem State.Inv.setPc {s : State} (h : s.Inv) (hw : s.wait = none) {w : Word} (hpc : w.toNat ≤ 0x10FE) :
    (s.setPc w).Inv :=
  { h with pcBound := hpc, waiting := fun _ hx => nomatch hw.symm.trans hx }

theorem State.Inv.setStack {s : State} (h : s.Inv) {l : List Word} (hl : ∀ d, s.stackDepth = some d → l.length ≤ d)
    (he : ∀ w ∈ l, w.toNat % 2 = 0 ∧ 2 ≤ w.toNat ∧ w.toNat ≤ 0x1000) : (s.setStack l).Inv :=
  { h with stackBound := hl, stackEntries := he }

/-- A fault that a step can raise may be latched (R240). -/
theorem State.Inv.takeFault {s : State} (h : s.Inv) {kind : FaultKind} {op : Option Word}
    (hk : kind ≠ .executionError ∧ kind ≠ .capacityError ∧ (op = none ↔ kind = .fetchFault)) (a : Word) :
    (s.takeFault kind op a).Inv :=
  { h with latched := fun r hr => by cases hr; exact hk }

/-- A wait that ends, or that stays with its FX0A, or that begins at one. -/
theorem State.Inv.setWait {s : State} (h : s.Inv) {o : Option Reg}
    (hw : ∀ x, o = some x → s.fetchWord = encode (.ldVxK x)) : (s.setWait o).Inv :=
  { h with waiting := hw }

/-! ### Reset and the host's actions -/

theorem hostReset_inv (s : State) : (hostReset s).Inv where
  memory := Memory.wf_nil
  stackBound _ _ := Nat.zero_le _
  stackEntries _ hw := nomatch hw
  pcBound := (by decide : Config.progBase.toNat ≤ 0x10FE)
  waiting _ hx := nomatch hx
  latched _ hr := nomatch hr

/-- The machine at construction is what a reset makes of it. -/
theorem hostReset_reset : hostReset State.reset = State.reset := rfl

/-- The font is inside the memory (R281). -/
theorem hostLoadFontset_inv {s : State} (h : s.Inv) (hw : s.wait = none) (font : Font) : (hostLoadFontset font s).Inv :=
  h.setMem hw (Memory.wf_writeAll h.memory _ (by rw [Vector.length_toList]; decide))

/-- An image that is not rejected is inside the memory (R282, R283). -/
theorem hostLoad_inv {font : Font} {image : List Byte} {s t : State} (h : hostLoad font image s = .ok t) : t.Inv := by
  unfold hostLoad at h
  split at h
  · cases h
  · next hlen =>
    cases h
    have hfont := hostLoadFontset_inv (hostReset_inv s) rfl font
    refine hfont.setMem rfl (Memory.wf_writeAll hfont.memory _ ?_)
    simp only [Config.maxProg, Config.progBase, Config.memSize, BitVec.toNat_ofNat] at hlen ⊢
    omega

/-! ### The step -/

theorem State.Inv.elapse {s : State} (h : s.Inv) : s.elapse.Inv := { h with }

/-- Past a word that could be fetched, `PC` is even and in 2 to 0x1000 (R112). -/
theorem advance_pc_bounds {s : State} (h : fetchCause s.pc = none) :
    s.advance.pc.toNat % 2 = 0 ∧ 2 ≤ s.advance.pc.toNat ∧ s.advance.pc.toNat ≤ 0x1000 := by
  obtain ⟨hle, heven⟩ := (fetchCause_eq_none_iff s.pc).1 h
  have : s.advance.pc.toNat = (s.pc.toNat + 2) % 65536 := BitVec.toNat_add ..
  omega

theorem State.Inv.advance {s : State} (h : s.Inv) (hw : s.wait = none) (hc : fetchCause s.pc = none) : s.advance.Inv := by
  obtain ⟨-, -, hle⟩ := advance_pc_bounds hc
  exact h.setPc hw (hle.trans (by decide))

/-- While a wait is pending the word at `PC` decodes to its FX0A and to nothing else. -/
theorem State.Inv.wait_eq_none {s : State} (h : s.Inv) (hi : ∀ x, decode s.fetchWord ≠ some (.ldVxK x)) :
    s.wait = none := by
  cases hw : s.wait with
  | none => rfl
  | some x => exact absurd (h.waiting x hw ▸ decode_encode_ldVxK x) (hi x)

/-- Every instruction but FX0A keeps the invariant, executed past a word that could be fetched with no wait pending. -/
theorem State.Inv.of_effect {i : Instr} {s t : State} (h : s.Inv) (hw : s.wait = none)
    (hpc : s.pc.toNat % 2 = 0 ∧ 2 ≤ s.pc.toNat ∧ s.pc.toNat ≤ 0x1000) (hi : ∀ x, i ≠ .ldVxK x) (ht : Effect i s t) :
    t.Inv := by
  cases ht with
  | data v w d hv => exact { h with }
  | delay x _ | sound x _ => exact { h with }
  | store m w hm => exact { h.setMem hw (hm h.memory) with }
  | branch w hb => exact h.setPc hw (hb hpc.2.2)
  | call nnn hfull =>
    have depth : ∀ d, s.stackDepth = some d → (s.pc :: s.stack).length ≤ d := fun d hd => by
      have hne : d ≠ s.sp := fun e => hfull (e ▸ hd)
      have hle := h.stackBound d hd
      rw [State.sp_eq] at hne hle
      rw [List.length_cons]
      omega
    refine (h.setStack depth (List.forall_mem_cons.2 ⟨hpc, h.stackEntries⟩)).setPc hw ?_
    have := nnn.isLt
    rw [zextAddr_toNat]
    omega
  | ret w rest hs =>
    obtain ⟨⟨-, -, hle⟩, entries⟩ := List.forall_mem_cons.1 (hs ▸ h.stackEntries)
    have depth : ∀ d, s.stackDepth = some d → rest.length ≤ d := fun d hd => by
      have := h.stackBound d hd
      rw [State.sp_eq, hs, List.length_cons] at this
      omega
    exact (h.setStack depth entries).setPc hw (hle.trans (by decide))
  | await x e => exact absurd e (hi x)
  | fault kind hk =>
    simp only [List.mem_cons, List.not_mem_nil, or_false, not_or] at hk
    exact h.takeFault ⟨hk.1, hk.2.1, by simp [hk.2.2]⟩ _

/-- FX0A keeps the invariant: without an event `PC` is back at it and the wait pending, with one the wait is over
(R223). -/
theorem State.Inv.awaitKey {s : State} {x : Reg} (h : s.Inv) (hc : fetchCause s.pc = none)
    (hd : decode s.fetchWord = some (.ldVxK x)) (o : Option Key) : (s.advance.awaitKey x o).Inv := by
  cases o with
  | none =>
    have back : s.advance.pc - 2 = s.pc := BitVec.add_sub_cancel s.pc 2
    have still : (s.setWait (some x)).Inv := h.setWait fun y hy => by
      cases hy
      exact (encode_of_decode hd).symm
    rw [State.awaitKey, back]
    exact { still with }
  | some k =>
    have ended : (s.setWait none).Inv := h.setWait nofun
    exact { ended.advance rfl hc with }

/-- An instruction fetched and executed keeps the invariant. -/
theorem exec_inv {i : Instr} {s t : State} (h : s.Inv) (hc : fetchCause s.pc = none) (hd : decode s.fetchWord = some i)
    (ht : exec i s.advance = .next t) : t.Inv := by
  by_cases hi : ∃ x, i = .ldVxK x
  · obtain ⟨x, rfl⟩ := hi
    obtain rfl := Host.Outcome.next.inj ht
    exact h.awaitKey hc hd _
  · have hi : ∀ x, i ≠ .ldVxK x := fun x e => hi ⟨x, e⟩
    have hw : s.wait = none := h.wait_eq_none fun x e => hi x (Option.some.inj (hd.symm.trans e))
    exact (h.advance hw hc).of_effect hw (advance_pc_bounds hc) hi (effect_of_exec ht)

theorem step_inv {s t : State} (h : s.Inv) (ht : step s = .next t) : t.Inv := by
  have he := h.elapse
  rcases step_cases s with ⟨r, -, hs⟩ | ⟨c, -, hc, hs⟩ | ⟨-, hc, hd, hs⟩ | ⟨i, -, hc, hd, hs⟩ <;> rw [hs] at ht
  · cases ht
  · cases ht
    exact he.takeFault (by decide) _
  · cases ht
    have hw := he.wait_eq_none fun x e => nomatch hd.symm.trans e
    exact (he.advance hw hc).takeFault (by simp) _
  · exact exec_inv he hc hd ht

end Sys2Proof.Machine

section

open Sys2Proof Sys2Proof.Machine

/-- Settles O20: the reset state is what a reset makes of it, and every reset meets the invariant. -/
theorem resetMeetsInvariant : Obligations.ResetMeetsInvariant := by
  unfold Obligations.ResetMeetsInvariant
  rw [← hostReset_reset]
  exact hostReset_inv State.reset

/-- Settles O21: the ticks before the step touch nothing the invariant reads; a fault is one a step can raise; FX0A
leaves its own wait at its own word; any other instruction is executed with no wait pending. -/
theorem stepKeepsInvariant : Obligations.StepKeepsInvariant := fun _ _ => step_inv

/-- Settles O22, action by action. -/
theorem hostActionsKeepInvariant : Obligations.HostActionsKeepInvariant := by
  intro s a h hfont
  cases a with
  | tick => exact { h with }
  | reset => exact hostReset_inv s
  | loadFontset font => exact hostLoadFontset_inv h (hfont ⟨font, rfl⟩) font
  | load font image =>
    simp only [State.perform]
    cases hl : hostLoad font image s with
    | ok t => exact hostLoad_inv hl
    | error e => exact h
  | setQuirkShift q | setQuirkJump q | setQuirkIndex q => exact { h with }

end
end

section
/-! PROOF. Reset and load: the reset values (R37) and the image of memory (R38). -/

namespace Sys2Proof.Machine

theorem reset_hasResetValues : State.reset.HasResetValues := by
  refine ⟨fun _ => rfl, fun r => ?_, rfl, rfl, rfl, fun k => ?_, rfl, rfl, rfl, rfl⟩
  · simp only [State.getV, State.reset, Fin.getElem_fin, Vector.getElem_replicate]
  · simp only [State.cell, State.reset, Fin.getElem_fin, Vector.getElem_replicate, BitVec.ofNat_eq_ofNat,
      BitVec.getLsbD_zero]
    rfl

/-- A reset sets every piece R37 names to the value at construction. -/
theorem hostReset_hasResetValues (s : State) : (hostReset s).HasResetValues := reset_hasResetValues

/-- The state an image that fits is loaded into: reset, the font at 0, the image at 0x200 (R281, R282). -/
def loadedState (font : Font) (image : List Byte) (s : State) : State :=
  (hostReset s).setMem (Memory.writeAll (Memory.writeAll [] 0 font.toList) 0x200 image)

theorem hostLoad_eq_loadedState (font : Font) {image : List Byte} (s : State) (h : image.length ≤ 3584) :
    hostLoad font image s = .ok (loadedState font image s) := if_neg (Nat.not_lt.2 h)

/-- Every byte after a load: image, font or zero (R38). -/
theorem loadedState_readByte (font : Font) (image : List Byte) (s : State) (a : Nat) :
    (loadedState font image s).readByte a =
      if h : 0x200 ≤ a ∧ a < 0x200 + image.length then image[a - 0x200]'(by omega)
      else if h : a < 80 then font[a] else 0 := by
  have hfont : Memory.read (Memory.writeAll [] 0 font.toList) a = if h : a < 80 then font[a] else 0 := by
    rw [Memory.read_writeAll]
    simp [Memory.read, Memory.blank]
  rw [← hfont]
  exact Memory.read_writeAll _ image 0x200 a

end Sys2Proof.Machine

section

open Sys2Proof Sys2Proof.Machine

/-- Settles O7: a reset is the state at construction but for the parameters and the step number. -/
theorem resetLeavesTheResetValues : Obligations.ResetLeavesTheResetValues :=
  ⟨fun s => ⟨hostReset_hasResetValues s, rfl, rfl, rfl, rfl⟩, reset_hasResetValues⟩

/-- Settles O8: the three ranges of addresses are read off `loadedState_readByte`. -/
theorem loadPlacesFontAndImage : Obligations.LoadPlacesFontAndImage := by
  intro font image s hlen
  refine ⟨hostReset_hasResetValues s, loadedState font image s, hostLoad_eq_loadedState font s hlen,
    fun j hj => ?_, fun j hj => ?_, fun a ha hout => ?_, fun p hp => ?_⟩
  · rw [loadedState_readByte, dif_neg (by omega), dif_pos hj]
  · rw [loadedState_readByte, dif_pos (by omega)]
    simp only [Nat.add_sub_cancel_left]
  · rw [loadedState_readByte, dif_neg (by omega), dif_neg (by omega)]
  · cases p with
    | mem a => exact absurd ⟨a, rfl⟩ hp
    | _ => rfl

end
end

section
/-! PROOF. The timers (R27, R28), the flag (R22) and the display (R26): who writes them and who reads them. -/

namespace Sys2Proof.Machine

/-! ### Who writes: frames read off `Effect` -/

/-- The answer of a key draw changes registers, `PC` and `WAIT` (R223). -/
theorem awaitKey_shape (s : State) (x : Reg) (o : Option Key) :
    ∃ v w q, s.awaitKey x o = { s with v := v, pc := w, wait := q } := by
  cases o with
  | none => exact ⟨_, _, _, rfl⟩
  | some k => exact ⟨_, _, _, rfl⟩

/-- `DT` is written by FX15 alone. -/
theorem Effect.dt_eq {i : Instr} {s t : State} (h : Effect i s t) (hi : ∀ x, i ≠ .ldDtVx x) : t.dt = s.dt := by
  cases h with
  | delay x e => exact absurd e (hi x)
  | await x _ =>
    obtain ⟨v, w, q, h⟩ := awaitKey_shape s x s.drawKeyEvent
    rw [h]
  | _ => rfl

/-- `ST` is written by FX18 alone. -/
theorem Effect.st_eq {i : Instr} {s t : State} (h : Effect i s t) (hi : ∀ x, i ≠ .ldStVx x) : t.st = s.st := by
  cases h with
  | sound x e => exact absurd e (hi x)
  | await x _ =>
    obtain ⟨v, w, q, h⟩ := awaitKey_shape s x s.drawKeyEvent
    rw [h]
  | _ => rfl

/-- A register outside the "Writes" line is as before, fault or no fault. -/
theorem Effect.getV_eq {i : Instr} {s t : State} (h : Effect i s t) {r : Reg} (hr : ¬ mayWrite s i (.v r)) :
    t.getV r = s.getV r := by
  cases h with
  | data v w d hv => exact hv r hr
  | await x e =>
    subst e
    cases hk : s.drawKeyEvent with
    | none => rfl
    | some k =>
      have hne : r ≠ x := fun e => hr (.inr (.inr ⟨by simp [hk], congrArg Piece.v e⟩))
      simp [State.awaitKey, hne]
  | _ => rfl

/-! ### Who reads: the display and `ST` changed before an instruction -/

/-- The machine with its outputs changed, the display by `g` and the sound timer by `h`. -/
def State.mapOutputs (g : Vector Row 32 → Vector Row 32) (h : Byte → Byte) (s : State) : State :=
  { s with disp := g s.disp, st := h s.st }

section

variable (g : Vector Row 32 → Vector Row 32) (h : Byte → Byte) (s : State)

theorem getV_mapOutputs (r : Reg) : (s.mapOutputs g h).getV r = s.getV r := rfl

theorem pop_mapOutputs : (s.mapOutputs g h).pop = s.pop.map fun p => (p.1, p.2.mapOutputs g h) := by
  have same : (s.mapOutputs g h).stack = s.stack := rfl
  unfold State.pop
  rw [same]
  cases s.stack <;> rfl

theorem push_mapOutputs (w : Word) : (s.mapOutputs g h).push w = (s.push w).map (State.mapOutputs g h) := by
  have same : (s.mapOutputs g h).full = s.full := rfl
  unfold State.push
  rw [same]
  split <;> rfl

theorem skipIf_mapOutputs (b : Bool) : (s.mapOutputs g h).skipIf b = (s.skipIf b).mapOutputs g h := by
  simp only [State.skipIf_eq]
  rfl

theorem shiftSource_mapOutputs (x y : Reg) :
    (s.mapOutputs g h).shiftSource x y = (s.shiftSource x y).mapOutputs g h := by
  have same : (s.mapOutputs g h).quirkShift = s.quirkShift := rfl
  rw [State.shiftSource_eq, State.shiftSource_eq, same]
  split <;> rfl

theorem awaitKey_mapOutputs (x : Reg) (o : Option Key) :
    (s.mapOutputs g h).awaitKey x o = (s.awaitKey x o).mapOutputs g h := by
  cases o with
  | none => rfl
  | some k => rfl

theorem indexAfter_mapOutputs (x : Reg) : (s.mapOutputs g h).indexAfter x = (s.indexAfter x).mapOutputs g h := by
  simp only [State.indexAfter_eq]
  rfl

theorem storeRegs_mapOutputs (l : List Reg) :
    l.foldl State.storeReg (s.mapOutputs g h) = (l.foldl State.storeReg s).mapOutputs g h :=
  List.foldl_hom (State.mapOutputs g h) fun _ _ => rfl

theorem loadRegs_mapOutputs (l : List Reg) :
    l.foldl State.loadReg (s.mapOutputs g h) = (l.foldl State.loadReg s).mapOutputs g h :=
  List.foldl_hom (State.mapOutputs g h) fun _ _ => rfl

/-- A sprite does not look at `ST`. -/
theorem drawSprite_mapOutputs (vx vy : Byte) (n : Nat) :
    (s.mapOutputs id h).drawSprite vx vy n = (s.drawSprite vx vy n).mapOutputs id h := by
  have hit : ∀ (s : State) (k : CellIndex), (s.mapOutputs id h).hit k = (s.hit k).mapOutputs id h := fun s k => by
    have same : (s.mapOutputs id h).cell k = s.cell k := rfl
    rw [hit_eq, hit_eq, same]
    split <;> rfl
  rw [drawSprite_eq, drawSprite_eq]
  exact List.foldl_hom (State.mapOutputs id h) hit (init := s.setV VF 0)

variable {g h s}

/-- A checked access that commutes with a change of the outputs does so with its fault too (R60). -/
theorem bounded_mapOutputs {i : Instr} {past : Bool} {t u u' : State}
    (he : (if past then raise .memoryBoundsFault i s else .next u) = .next t) (hu : u' = u.mapOutputs g h) :
    (if past then raise .memoryBoundsFault i (s.mapOutputs g h) else .next u') = .next (t.mapOutputs g h) := by
  cases past <;> cases he
  · exact congrArg Host.Outcome.next hu
  · rfl

/-- An instruction does the same whatever the display and `ST` hold, but that 00E0 and DXYN write the display and FX18
writes `ST`. -/
theorem exec_mapOutputs {i : Instr} {t : State} (hg : (i = .cls ∨ ∃ x y n, i = .drw x y n) → g = id)
    (hh : (∃ x, i = .ldStVx x) → h = id) (he : exec i s = .next t) :
    exec i (s.mapOutputs g h) = .next (t.mapOutputs g h) := by
  cases i with
  | cls =>
    cases he
    rw [hg (.inl rfl)]
    rfl
  | drw x y n =>
    obtain rfl := hg (.inr ⟨x, y, n, rfl⟩)
    exact bounded_mapOutputs he (drawSprite_mapOutputs h s _ _ _)
  | ldStVx x =>
    cases he
    rw [hh ⟨x, rfl⟩]
    rfl
  | seImm | sneImm | seReg | sneReg =>
    cases he
    exact congrArg Host.Outcome.next (skipIf_mapOutputs g h s _)
  | shr x y =>
    cases he
    simp only [exec, execShr, shiftSource_mapOutputs]
    rfl
  | shl x y =>
    cases he
    simp only [exec, execShl, shiftSource_mapOutputs]
    rfl
  | ret =>
    simp only [exec, execRet, pop_mapOutputs] at he ⊢
    cases hp : s.pop <;> rw [hp] at he <;> cases he <;> rfl
  | call nnn =>
    have hpush : (s.mapOutputs g h).push (s.mapOutputs g h).pc = _ := push_mapOutputs g h s s.pc
    simp only [exec, execCall, hpush] at he ⊢
    cases hp : s.push s.pc <;> rw [hp] at he <;> cases he <;> rfl
  | skp x =>
    simp only [exec, execSkp, getV_mapOutputs] at he ⊢
    cases hk : keyOf (s.getV x) <;> rw [hk] at he <;> cases he
    · rfl
    · exact congrArg Host.Outcome.next (skipIf_mapOutputs g h s _)
  | sknp x =>
    simp only [exec, execSknp, getV_mapOutputs] at he ⊢
    cases hk : keyOf (s.getV x) <;> rw [hk] at he <;> cases he
    · rfl
    · exact congrArg Host.Outcome.next (skipIf_mapOutputs g h s _)
  | ldVxK x =>
    cases he
    exact congrArg Host.Outcome.next (awaitKey_mapOutputs g h s x _)
  | ldB x => exact bounded_mapOutputs he rfl
  | storeRegs x =>
    refine bounded_mapOutputs he ?_
    rw [storeRegs_mapOutputs, indexAfter_mapOutputs]
  | loadRegs x =>
    refine bounded_mapOutputs he ?_
    rw [loadRegs_mapOutputs, indexAfter_mapOutputs]
  | _ =>
    cases he
    rfl

end

/-! ### The statements' clauses -/

/-- A change of `ST` passes through every instruction but FX18. -/
theorem exec_setSt {i : Instr} {s t : State} (hi : ∀ x, i ≠ .ldStVx x) (he : exec i s = .next t) (b : Byte) :
    exec i (s.setSt b) = .next (t.setSt b) :=
  exec_mapOutputs (g := id) (h := fun _ => b) (fun _ => rfl) (fun ⟨x, hx⟩ => absurd hx (hi x)) he

/-- A change of the display passes through every instruction but 00E0 and DXYN. -/
theorem exec_setDisp {i : Instr} {s t : State} (hi : ¬ (i = .cls ∨ ∃ x y n, i = .drw x y n)) (he : exec i s = .next t)
    (d : Vector Row 32) : exec i (s.setDisp d) = .next (t.setDisp d) :=
  exec_mapOutputs (g := fun _ => d) (h := id) (fun hx => absurd hx hi) (fun _ => rfl) he

theorem setDisp_onlyChanges {W : Piece → Prop} (hW : ∀ k, W (.cell k)) (s : State) (d : Vector Row 32) :
    OnlyChanges W s (s.setDisp d) := by
  intro p hp
  cases p with
  | cell k => exact absurd (hW k) hp
  | _ => rfl

/-- Drawing one sprite on two displays: the displays and `VF` may differ afterwards. -/
theorem drawSprite_onlyChanges {W : Piece → Prop} (hW : ∀ k, W (.cell k)) (hF : W (.v VF)) (s : State)
    (d : Vector Row 32) (vx vy : Byte) (n : Nat) :
    OnlyChanges W (s.drawSprite vx vy n) ((s.setDisp d).drawSprite vx vy n) := by
  obtain ⟨v, e, h, hv⟩ := drawSprite_shape s vx vy n
  obtain ⟨v', e', h', hv'⟩ := drawSprite_shape (s.setDisp d) vx vy n
  intro p hp
  cases p with
  | cell k => exact absurd (hW k) hp
  | v r =>
    have hr : r ≠ VF := fun e => hp (e ▸ hF)
    exact (hv' r hr).trans (hv r hr).symm
  | _ =>
    rw [h, h']
    rfl

theorem flagByte_eq_zero_or_one (b : Bool) : flagByte b = 0 ∨ flagByte b = 1 := by cases b <;> decide

/-- The flag of an instruction that writes it before another register (R163). -/
theorem getV_flag_of_ne {x : Reg} (hx : x ≠ VF) (s : State) (b : Bool) (c : Byte) :
    ((s.setV VF (flagByte b)).setV x c).getV VF = 0 ∨ ((s.setV VF (flagByte b)).setV x c).getV VF = 1 := by
  have flag : ((s.setV VF (flagByte b)).setV x c).getV VF = flagByte b := by simp [Ne.symm hx]
  rw [flag]
  exact flagByte_eq_zero_or_one b

/-- After a sprite `VF` is 0 or 1 (R201). -/
theorem drawSprite_flag (s : State) (vx vy : Byte) {n : Nat} (hn : n < 16) :
    (s.drawSprite vx vy n).getV VF = 0 ∨ (s.drawSprite vx vy n).getV VF = 1 := by
  obtain ⟨hit, clear⟩ := hits_flag _ (nodup_spriteCells s vx vy hn) (s.setV VF 0)
  rw [drawSprite_eq]
  by_cases h : ∃ k ∈ s.spriteCells vx vy n, (s.setV VF 0).cell k = 1
  · exact .inr (hit h)
  · exact .inl ((clear h).trans (by simp))

end Sys2Proof.Machine

section

open Sys2Proof Sys2Proof.Machine

/-- Settles O13: the tick's arithmetic, FX15 and FX07 run, and the frame of `DT` for every other instruction. -/
theorem delayTimer : Obligations.DelayTimer :=
  ⟨fun s => ⟨countOne_toNat s.dt, countDown_toNat _ s.dt⟩,
    fun _ _ => ⟨_, rfl, rfl⟩,
    fun _ _ _ he hi => (effect_of_exec he).dt_eq hi,
    fun _ _ => ⟨_, rfl, by simp⟩,
    rfl, fun _ => rfl⟩

/-- Settles O14: as for the delay timer, and a change of `ST` passes through every instruction but FX18. -/
theorem soundTimer : Obligations.SoundTimer :=
  ⟨fun s => ⟨countOne_toNat s.st, countDown_toNat _ s.st⟩,
    fun _ _ => ⟨_, rfl, rfl⟩,
    fun _ _ _ he hi => ⟨(effect_of_exec he).st_eq hi, exec_setSt hi he⟩,
    fun _ _ _ => rfl,
    fun _ => bne_iff_ne,
    rfl, fun _ => rfl⟩

/-- Settles O25: an instruction whose "Writes" line does not name `VF` keeps it; the six flag writers and those whose
own destination is `VF` are the others. -/
theorem onlySixInstructionsWriteFlag : Obligations.OnlySixInstructionsWriteFlag := by
  intro i s t he
  by_cases hw : mayWrite s i (.v VF)
  case neg => simp only [(effect_of_exec he).getV_eq hw, or_true]
  cases i with
  | addReg x y | subReg x y | subnReg x y =>
    cases he
    exact .inl ⟨x, y, by simp, fun hx => getV_flag_of_ne hx s _ _⟩
  | shr x y | shl x y =>
    cases he
    exact .inl ⟨x, y, by simp, fun hx => getV_flag_of_ne hx (s.shiftSource x y) _ _⟩
  | drw x y n =>
    simp only [exec, execDrw] at he
    split at he <;> cases he
    · simp [State.takeFault]
    · exact .inr (.inl ⟨x, y, n, rfl, fun _ => drawSprite_flag s _ _ n.isLt⟩)
  | ldImm x | addImm x | rnd x | ldReg x | orReg x | andReg x | xorReg x | ldVxDt x =>
    obtain rfl : VF = x := Piece.v.inj hw
    simp
  | ldVxK x =>
    obtain ⟨-, rfl⟩ : s.drawKeyEvent ≠ none ∧ VF = x := by simpa [mayWrite] using hw
    simp
  | loadRegs x =>
    have hle : VF ≤ x := by simpa [mayWrite] using hw
    obtain rfl : VF = x := le_antisymm hle (Fin.le_last x)
    simp
  | _ => simp [mayWrite] at hw

/-- Settles O26: the instructions that write the display, then all the others at once. -/
theorem displayIsReadForCollisionOnly : Obligations.DisplayIsReadForCollisionOnly := by
  intro i s t d he
  by_cases hi : i = .cls ∨ ∃ x y n, i = .drw x y n
  · rcases hi with rfl | ⟨x, y, n, rfl⟩
    · cases he
      exact ⟨_, rfl, setDisp_onlyChanges (fun k => .inl ⟨k, rfl⟩) _ _⟩
    · have same : (s.setDisp d).pastMemory (n.toNat - 1) = s.pastMemory (n.toNat - 1) := rfl
      simp only [exec, execDrw, same] at he ⊢
      cases hc : (decide (n.toNat > 0) && s.pastMemory (n.toNat - 1)) <;> rw [hc] at he <;> cases he
      · exact ⟨_, rfl, drawSprite_onlyChanges (fun k => .inl ⟨k, rfl⟩) (.inr ⟨⟨x, y, n, rfl⟩, rfl⟩) s d _ _ _⟩
      · exact ⟨_, rfl, setDisp_onlyChanges (fun k => .inl ⟨k, rfl⟩) _ d⟩
  · exact ⟨_, exec_setDisp hi he d, setDisp_onlyChanges (fun k => .inl ⟨k, rfl⟩) t d⟩

end
end

section
/-! PROOF. Memory as the fetch sees it: big-endian words (R55), of a loaded image and of bytes just stored (R63). -/

namespace Sys2Proof.Machine

@[simp] theorem State.readByte_setMem (s : State) (m : Memory) (a : Nat) : (s.setMem m).readByte a = Memory.read m a :=
  rfl

/-- The byte at `PC` is the high one (R55). -/
theorem State.fetchWord_toNat (s : State) :
    s.fetchWord.toNat = (s.readByte s.pc.toNat).toNat * 256 + (s.readByte (s.pc.toNat + 1)).toNat :=
  joinBytes_toNat _ _

/-- The word at any address `PC` can hold. -/
theorem State.fetchWord_setPc_toNat (s : State) {a : Nat} (ha : a < 65536) :
    (s.setPc (BitVec.ofNat 16 a)).fetchWord.toNat = (s.readByte a).toNat * 256 + (s.readByte (a + 1)).toNat := by
  have pc : (BitVec.ofNat 16 a).toNat = a := (BitVec.toNat_ofNat a 16).trans (Nat.mod_eq_of_lt ha)
  simp only [State.fetchWord_toNat, State.setPc_pc, State.readByte_setPc, pc]

/-- A load that succeeds had an image that fits, and it leaves `loadedState` (R282, R283). -/
theorem loadedState_of_hostLoad {font : Font} {image : List Byte} {s t : State} (h : hostLoad font image s = .ok t) :
    image.length ≤ 3584 ∧ t = loadedState font image s := by
  by_cases hlen : image.length ≤ 3584
  · rw [hostLoad_eq_loadedState font s hlen] at h
    exact ⟨hlen, (Except.ok.inj h).symm⟩
  · have rejected : hostLoad font image s = .error .capacityError := if_pos (Nat.lt_of_not_le hlen)
    cases rejected.symm.trans h

/-- The image stands from 0x200 on (R282). -/
theorem loadedState_readByte_image (font : Font) {image : List Byte} (s : State) {j : Nat} (h : j < image.length) :
    (loadedState font image s).readByte (0x200 + j) = image[j] := by
  rw [loadedState_readByte, dif_pos (by omega)]
  simp only [Nat.add_sub_cancel_left]

/-- FX55 inside the memory: the registers stand from `I` on, every other byte is as before, and then `I` moves as the
index quirk says (R184, R187). -/
theorem exec_storeRegs {x : Reg} {s : State} (h : s.i.toNat + x.val ≤ 4095) :
    ∃ m, exec (.storeRegs x) s = .next ((s.setMem m).indexAfter x) ∧
      (∀ r ≤ x, Memory.read m (s.i.toNat + r.val) = s.getV r) ∧
      ∀ a, (∀ r ≤ x, a ≠ s.i.toNat + r.val) → Memory.read m a = s.readByte a := by
  have inside : s.pastMemory x.val = false := (s.pastMemory_eq_false_iff x.val).2 h
  have bytes := storeRegs_readByte (regsTo x) (nodup_regsTo x) s
  obtain ⟨m, hm⟩ := storeRegs_eq_setMem (regsTo x) s
  simp only [hm, mem_regsTo] at bytes
  refine ⟨m, ?_, fun r hr => (bytes _).1 r hr rfl, fun a => (bytes a).2⟩
  simp only [exec, execStoreRegs, inside, hm, Bool.false_eq_true, if_false]

end Sys2Proof.Machine

section

open Sys2Proof Sys2Proof.Machine

/-- Settles O6: the fetch joins two bytes, and after a load the two at 0x200 + 2j are those of the image. -/
theorem fetchIsBigEndian : Obligations.FetchIsBigEndian := by
  refine ⟨State.fetchWord_toNat, fun font image s t hload => ?_⟩
  obtain ⟨hlen, rfl⟩ := loadedState_of_hostLoad hload
  refine ⟨rfl, fun j hj => ?_⟩
  rw [State.fetchWord_setPc_toNat _ (by omega), Nat.add_assoc, loadedState_readByte_image font s (by omega),
    loadedState_readByte_image font s hj]

/-- Settles O52: the store leaves `PC` alone, and the two bytes the fetch joins are those of the two registers. -/
theorem storeIsFetchedNext : Obligations.StoreIsFetchedNext := by
  intro x r q s hin hq hqr hpc
  have hr : r ≤ x := Fin.le_def.2 (by have := Fin.le_def.1 hq; omega)
  have hnext : s.i.toNat + r.val + 1 = s.i.toNat + q.val := by omega
  obtain ⟨m, hexec, stored, -⟩ := exec_storeRegs hin
  refine ⟨_, hexec, ?_⟩
  rw [State.indexAfter_eq, State.fetchWord_toNat]
  simp only [State.readByte_setI, State.readByte_setMem, State.setI_pc, State.setMem_pc, hpc, hnext, stored r hr,
    stored q hq]

end
end

section
/-! PROOF. Encoding and decoding, the rows of the opcode map, and the illegal words (`30_encoding.md` R84, R85, R87). -/

namespace Sys2Proof

/-- No operand bit is lost by encoding: each field is read back from where its pattern puts it (R84, R85). -/
theorem decode_encode (i : Instr) : decode (encode i) = some i := by
  cases i with
  | cls | ret => rfl
  | jp | call | ldI | jpV0 | seImm | sneImm | ldImm | addImm | rnd | seReg | sneReg | drw => simp [encode, decode]
  | ldReg | orReg | andReg | xorReg | addReg | subReg | shr | subnReg | shl => simp [encode, decode, decodeGroup8]
  | skp | sknp => simp [encode, decode, decodeGroupE]
  | ldVxDt | ldVxK | ldDtVx | ldStVx | addI | ldF | ldB | storeRegs | loadRegs => simp [encode, decode, decodeGroupF]

section rows

open Laws.SelectsRow

variable {v w : Word}

/-- The word of every instruction selects its row, the parts under the mask being constants of the pattern (R85). -/
theorem encode_selectsRow (i : Instr) : Statement i := by
  cases i with
  | cls | ret => rfl
  | jp | call | ldI | jpV0 => exact (group_addr _ _).trans rfl
  | seImm | sneImm | ldImm | addImm | rnd => exact (group_reg_byte _ _ _).trans rfl
  | seReg | sneReg | drw => exact (group_reg_reg _ _ _ _).trans rfl
  | ldReg | orReg | andReg | xorReg | addReg | subReg | shr | subnReg | shl =>
    exact (group_reg_reg_sub _ _ _ _).trans rfl
  | skp | sknp | ldVxDt | ldVxK | ldDtVx | ldStVx | addI | ldF | ldB | storeRegs | loadRegs =>
    exact (group_reg_sub _ _ _).trans rfl

/-- Words that agree under a mask of the group have the same group. -/
theorem opG_eq_of_mask (h : v &&& 0xF000#16 = w &&& 0xF000#16) : opG v = opG w := by
  rw [← group_addr_eq v, ← group_addr_eq w, group_addr, group_addr] at h
  simpa using congrArg opG h

/-- Words that agree under a mask of the group and the low nibble agree in both. -/
theorem opG_opN_eq_of_mask (h : v &&& 0xF00F#16 = w &&& 0xF00F#16) : opG v = opG w ∧ opN v = opN w := by
  rw [← group_reg_reg_eq v, ← group_reg_reg_eq w, group_reg_reg_sub, group_reg_reg_sub] at h
  exact ⟨by simpa using congrArg opG h, by simpa using congrArg opN h⟩

/-- Words that agree under a mask of the group and the low byte agree in both. -/
theorem opG_opNN_eq_of_mask (h : v &&& 0xF0FF#16 = w &&& 0xF0FF#16) : opG v = opG w ∧ opNN v = opNN w := by
  rw [← group_reg_byte_eq v, ← group_reg_byte_eq w, group_reg_sub, group_reg_sub] at h
  exact ⟨by simpa using congrArg opG h, by simpa using congrArg opNN h⟩

end rows

/-- A word that selects the row of `i` agrees with the encoding of `i` in the fields the row's mask fixes, and by these
the decoder tells the kinds apart (R84, R85). -/
theorem exists_decode_of_mask {w : Word} {i : Instr} (h : w &&& (opRow i).mask = (opRow i).pattern) :
    ∃ j, decode w = some j ∧ opRow j = opRow i := by
  have agree : w &&& (opRow i).mask = encode i &&& (opRow i).mask := h.trans (encode_selectsRow i).symm
  cases i with
  | cls | ret =>
    obtain rfl := BitVec.and_allOnes.symm.trans h
    exact ⟨_, rfl, rfl⟩
  | jp | call | ldI | jpV0 | seImm | sneImm | ldImm | addImm | rnd | seReg | sneReg | drw =>
    have hg := opG_eq_of_mask agree
    simp [decode, hg, encode, opRow]
  | ldReg | orReg | andReg | xorReg | addReg | subReg | shr | subnReg | shl =>
    obtain ⟨hg, hn⟩ := opG_opN_eq_of_mask agree
    simp [decode, decodeGroup8, hg, hn, encode, opRow]
  | skp | sknp =>
    obtain ⟨hg, hn⟩ := opG_opNN_eq_of_mask agree
    simp [decode, decodeGroupE, hg, hn, encode, opRow]
  | ldVxDt | ldVxK | ldDtVx | ldStVx | addI | ldF | ldB | storeRegs | loadRegs =>
    obtain ⟨hg, hn⟩ := opG_opNN_eq_of_mask agree
    simp [decode, decodeGroupF, hg, hn, encode, opRow]

theorem decodeGroup0_eq_none_iff (w : Word) :
    decodeGroup0 w = none ↔ w.toNat ≠ 0x00E0 ∧ w.toNat ≠ 0x00EE := by
  unfold decodeGroup0
  split
  · next hw => simp [hw]
  · split
    · next hw => simp [hw]
    · simp only [true_iff]; bv_omega

theorem decodeGroup8_eq_none_iff (w : Word) :
    decodeGroup8 w = none ↔ w.toNat % 16 ∈ [0x8, 0x9, 0xA, 0xB, 0xC, 0xD, 0xF] := by
  rw [← opN_toNat]
  unfold decodeGroup8
  split
  case h_10 =>
    simp only [imp_false, List.mem_cons, List.not_mem_nil, or_false, true_iff] at *
    bv_omega
  all_goals next hn => simp [hn]

theorem decodeGroupE_eq_none_iff (w : Word) : decodeGroupE w = none ↔ w.toNat % 256 ∉ [0x9E, 0xA1] := by
  rw [← opNN_toNat]
  unfold decodeGroupE
  split
  case h_3 =>
    simp only [imp_false, List.mem_cons, List.not_mem_nil, or_false, true_iff] at *
    bv_omega
  all_goals next hn => simp [hn]

theorem decodeGroupF_eq_none_iff (w : Word) :
    decodeGroupF w = none ↔ w.toNat % 256 ∉ [0x07, 0x0A, 0x15, 0x18, 0x1E, 0x29, 0x33, 0x55, 0x65] := by
  rw [← opNN_toNat]
  unfold decodeGroupF
  split
  case h_10 =>
    simp only [imp_false, List.mem_cons, List.not_mem_nil, or_false, true_iff] at *
    bv_omega
  all_goals next hn => simp [hn]

theorem opG_eq_iff (w : Word) (g : Nibble) : opG w = g ↔ w.toNat / 0x1000 = g.toNat := by
  rw [← opG_toNat, BitVec.toNat_inj]

/-- Only four groups hold words that decode to nothing (R84). -/
theorem decode_eq_none_iff (w : Word) : decode w = none ↔
    (opG w = 0x0#4 ∧ decodeGroup0 w = none) ∨ (opG w = 0x8#4 ∧ decodeGroup8 w = none) ∨
    (opG w = 0xE#4 ∧ decodeGroupE w = none) ∨ (opG w = 0xF#4 ∧ decodeGroupF w = none) := by
  unfold decode
  split
  case h_16 =>
    have hg : opG w = 0xF#4 := by
      simp only [imp_false] at *
      bv_omega
    simp [hg]
  all_goals next hg => simp [hg]

end Sys2Proof

section

open Sys2Proof

/-- Settles O1: the fields of an encoding, format by format, are the ones the decoder reads. -/
theorem decodeOfEncode : Obligations.DecodeOfEncode := decode_encode

/-- Settles O2: the word is the encoding of its instruction, and an encoding selects its row. -/
theorem encodeOfDecode : Obligations.EncodeOfDecode := by
  intro w i h
  obtain rfl := encode_of_decode h
  exact ⟨rfl, encode_selectsRow i⟩

/-- Settles O3: the row fixes the fields by which the decoder tells the kinds apart. -/
theorem selectedRowDecodes : Obligations.SelectedRowDecodes := fun _ _ => exists_decode_of_mask

/-- Settles O4: the four groups with illegal words, each with its own condition. -/
theorem illegalWords : Obligations.IllegalWords := by
  intro w
  have h0 : opG w = 0x0#4 ↔ w.toNat < 0x1000 := by
    rw [opG_eq_iff]
    exact Nat.div_eq_zero_iff_lt (by decide)
  rw [decode_eq_none_iff, h0, opG_eq_iff, opG_eq_iff, opG_eq_iff, decodeGroup0_eq_none_iff, decodeGroup8_eq_none_iff,
    decodeGroupE_eq_none_iff, decodeGroupF_eq_none_iff]
  exact Iff.rfl

/-- Settles O5, by running the decoder on each word. -/
theorem tableWordsDecode : Obligations.TableWordsDecode := by
  unfold Obligations.TableWordsDecode
  decide

end
end

section
/-! PROOF. The frame (`10_state.md` R36, `40_step_cycle.md` R113): each update of the state stays inside a set of pieces
that names what it writes. -/

namespace Sys2Proof.Machine

namespace OnlyChanges

variable {W : Piece → Prop} {s t : State}

theorem refl : OnlyChanges W s s := fun p _ => by cases p <;> rfl

theorem setV (h : OnlyChanges W s t) {x : Reg} (hW : W (.v x)) (b : Byte) :
    OnlyChanges W s (t.setV x b) := fun p hp => by
  have same := h p hp
  cases p with
  | v r =>
    have hne : r ≠ x := fun e => hp (e ▸ hW)
    exact ((t.getV_setV x b r).trans (if_neg hne)).trans same
  | _ => exact same

theorem writeByte (h : OnlyChanges W s t) {a : Nat} (hW : W (.mem a)) (b : Byte) :
    OnlyChanges W s (t.writeByte a b) := fun p hp => by
  have same := h p hp
  cases p with
  | mem a' =>
    have hne : a' ≠ a := fun e => hp (e ▸ hW)
    exact ((t.readByte_writeByte a b a').trans (if_neg hne)).trans same
  | _ => exact same

theorem flipCell (h : OnlyChanges W s t) {k : CellIndex} (hW : W (.cell k)) : OnlyChanges W s (t.flipCell k) :=
  fun p hp => by
  have same := h p hp
  cases p with
  | cell k' =>
    have hne : k' ≠ k := fun e => hp (e ▸ hW)
    exact ((t.cell_flipCell k k').trans (if_neg hne)).trans same
  | _ => exact same

theorem setMem (h : OnlyChanges W s t) {m : Memory} (hm : ∀ a, ¬ W (.mem a) → Memory.read m a = s.readByte a) :
    OnlyChanges W s (t.setMem m) := fun p hp => by
  cases p with
  | mem a => exact hm a hp
  | _ => exact h _ hp

theorem setI (h : OnlyChanges W s t) (hW : W .i) (w : Word) : OnlyChanges W s (t.setI w) := fun p hp => by
  cases p with
  | i => exact absurd hW hp
  | _ => exact h _ hp

theorem setPc (h : OnlyChanges W s t) (hW : W .pc) (w : Word) : OnlyChanges W s (t.setPc w) := fun p hp => by
  cases p with
  | pc => exact absurd hW hp
  | _ => exact h _ hp

theorem setStack (h : OnlyChanges W s t) (hW : W .stack) (l : List Word) : OnlyChanges W s (t.setStack l) :=
  fun p hp => by
  cases p with
  | stack => exact absurd hW hp
  | _ => exact h _ hp

theorem setDt (h : OnlyChanges W s t) (hW : W .dt) (b : Byte) : OnlyChanges W s (t.setDt b) := fun p hp => by
  cases p with
  | dt => exact absurd hW hp
  | _ => exact h _ hp

theorem setSt (h : OnlyChanges W s t) (hW : W .st) (b : Byte) : OnlyChanges W s (t.setSt b) := fun p hp => by
  cases p with
  | st => exact absurd hW hp
  | _ => exact h _ hp

theorem setWait (h : OnlyChanges W s t) (hW : W .wait) (o : Option Reg) :
    OnlyChanges W s (t.setWait o) := fun p hp => by
  cases p with
  | wait => exact absurd hW hp
  | _ => exact h _ hp

theorem setFault (h : OnlyChanges W s t) (hW : W .fault) (f : Option FaultRecord) : OnlyChanges W s (t.setFault f) :=
  fun p hp => by
  cases p with
  | fault => exact absurd hW hp
  | _ => exact h _ hp

theorem setStepNo (h : OnlyChanges W s t) (hW : W .stepNo) (n : Nat) : OnlyChanges W s (t.setStepNo n) := fun p hp => by
  cases p with
  | stepNo => exact absurd hW hp
  | _ => exact h _ hp

/-- A loop stays inside what each of its rounds stays inside. -/
theorem foldl {α : Type} {f : State → α → State} {l : List α} (h : OnlyChanges W s t)
    (hf : ∀ u, OnlyChanges W s u → ∀ a ∈ l, OnlyChanges W s (f u a)) : OnlyChanges W s (l.foldl f t) :=
  List.foldlRecOn l f h hf

theorem skipIf (h : OnlyChanges W s t) (hW : W .pc) (b : Bool) : OnlyChanges W s (t.skipIf b) := by
  rw [State.skipIf_eq]
  exact h.setPc hW _

theorem shiftSource (h : OnlyChanges W s t) {x : Reg} (hW : W (.v x)) (y : Reg) :
    OnlyChanges W s (t.shiftSource x y) := by
  rw [State.shiftSource_eq]
  split
  · exact h.setV hW _
  · exact h

/-- `I` is written only with the index quirk on (R187). -/
theorem indexAfter (h : OnlyChanges W s t) (hW : t.quirkIndex = true → W .i) (x : Reg) :
    OnlyChanges W s (t.indexAfter x) := by
  unfold State.indexAfter
  split
  · next hq => exact h.setI (hW hq) _
  · exact h

theorem hit (h : OnlyChanges W s t) {k : CellIndex} (hF : W (.v VF)) (hW : W (.cell k)) :
    OnlyChanges W s (t.hit k) := by
  rw [hit_eq]
  split
  · exact (h.setV hF 1).flipCell hW
  · exact h.flipCell hW

/-- The interval before a step writes the timers and the step number (R117). -/
theorem elapse (h : OnlyChanges W s t) (hdt : W .dt) (hst : W .st) (hno : W .stepNo) : OnlyChanges W s t.elapse :=
  ((h.setDt hdt _).setSt hst _).setStepNo hno _

end OnlyChanges

end Sys2Proof.Machine
end

section
/-! PROOF. Execute without a fault (R113, R242): the next state of each instruction that can fault, and the pieces every
instruction writes. -/

namespace Sys2Proof.Machine

variable {s : State}

/-- 00EE on a stack with an entry (R130). -/
theorem exec_ret_of_cons {w : Word} {rest : List Word} (h : s.stack = w :: rest) :
    exec .ret s = .next ((s.setStack rest).setPc w) := by
  have hp : s.pop = some (w, s.setStack rest) := by simp only [State.pop, h]
  simp only [exec, execRet, hp]

/-- 2NNN on a stack that is not full (R132). -/
theorem exec_call_of_not_full {nnn : Addr} (h : s.stackDepth ≠ some s.sp) :
    exec (.call nnn) s = .next ((s.setStack (s.pc :: s.stack)).setPc (zextAddr nnn)) := by
  have hp : s.push s.pc = some (s.setStack (s.pc :: s.stack)) := if_neg (mt s.full_iff.1 h)
  simp only [exec, execCall, hp]

/-- EX9E on a key index (R220). -/
theorem exec_skp_of_key {x : Reg} {k : Key} (h : (s.getV x).toNat = k.val) :
    exec (.skp x) s = .next (s.skipIf (s.drawKeyPressed k)) := by
  simp only [exec, execSkp, (keyOf_eq_some_iff _ k).2 h]

/-- EXA1 on a key index (R221). -/
theorem exec_sknp_of_key {x : Reg} {k : Key} (h : (s.getV x).toNat = k.val) :
    exec (.sknp x) s = .next (s.skipIf (!s.drawKeyPressed k)) := by
  simp only [exec, execSknp, (keyOf_eq_some_iff _ k).2 h]

/-- DXYN with no row past the memory (R201). -/
theorem exec_drw_of_inside {x y : Reg} {n : Nibble} (h : ¬ (0 < n.toNat ∧ s.i.toNat + (n.toNat - 1) > 4095)) :
    exec (.drw x y n) s = .next (s.drawSprite (s.getV x) (s.getV y) n.toNat) :=
  if_neg (by simpa [State.pastMemory_iff] using h)

/-- FX33 inside the memory (R183). -/
theorem exec_ldB_of_inside {x : Reg} (h : s.i.toNat + 2 ≤ 4095) :
    exec (.ldB x) s = .next (s.storeDigits (s.getV x)) :=
  if_neg (by simpa [State.pastMemory_iff] using h)

/-- FX65 inside the memory (R185). -/
theorem exec_loadRegs_of_inside {x : Reg} (h : s.i.toNat + x.val ≤ 4095) :
    exec (.loadRegs x) s = .next (((regsTo x).foldl State.loadReg s).indexAfter x) :=
  if_neg (by simpa [State.pastMemory_iff] using h)

/-- A value that is no fault's cause names a key (R220). -/
theorem exists_key_of_not_gt {b : Byte} (h : ¬ b.toNat > 15) : ∃ k : Key, b.toNat = k.val := ⟨⟨b.toNat, by omega⟩, rfl⟩

/-- A condition for a fault that raises none does not hold. -/
theorem not_of_ite_fault {c : Prop} [Decidable c] {k : FaultKind} (h : (if c then some k else none) = none) : ¬ c :=
  fun hc => nomatch (if_pos hc).symm.trans h

/-- The cells of a sprite are those under its set bits (R201, R203). -/
theorem underSprite_of_mem_spriteCells {vx vy : Byte} {n : Nat} {k : CellIndex} (h : k ∈ s.spriteCells vx vy n) :
    s.underSprite vx vy n k := by
  obtain ⟨r, hr, c, hc, hbit, rfl⟩ := mem_spriteCells.1 h
  exact ⟨r, c, hr, hc, hbit, spriteCell_val vx vy r c⟩

theorem drawSprite_onlyChanges_mayWrite (x y : Reg) (n : Nibble) (s : State) :
    OnlyChanges (mayWrite s (.drw x y n)) s (s.drawSprite (s.getV x) (s.getV y) n.toNat) := by
  rw [drawSprite_eq]
  exact (OnlyChanges.refl.setV (.inl rfl) 0).foldl fun _ hu k hk =>
    hu.hit (.inl rfl) (.inr ⟨k, underSprite_of_mem_spriteCells hk, rfl⟩)

/-- FX0A writes `WAIT`, and `PC` without an event, the register with one (R223). -/
theorem awaitKey_onlyChanges_mayWrite (x : Reg) (s : State) :
    OnlyChanges (mayWrite s (.ldVxK x)) s (s.awaitKey x s.drawKeyEvent) := by
  cases hk : s.drawKeyEvent with
  | none => exact (OnlyChanges.refl.setWait (.inl rfl) _).setPc (.inr (.inl ⟨hk, rfl⟩)) _
  | some k => exact (OnlyChanges.refl.setV (.inr (.inr ⟨by simp [hk], rfl⟩)) _).setWait (.inl rfl) _

theorem storeDigits_onlyChanges (x : Reg) (s : State) (b : Byte) :
    OnlyChanges (mayWrite s (.ldB x)) s (s.storeDigits b) :=
  ((OnlyChanges.refl.writeByte ⟨0, by decide, rfl⟩ _).writeByte ⟨1, by decide, rfl⟩ _).writeByte ⟨2, by decide, rfl⟩ _

theorem loadRegs_onlyChanges (x : Reg) (s : State) :
    OnlyChanges (mayWrite s (.loadRegs x)) s (((regsTo x).foldl State.loadReg s).indexAfter x) := by
  have loaded : OnlyChanges (mayWrite s (.loadRegs x)) s ((regsTo x).foldl State.loadReg s) :=
    OnlyChanges.refl.foldl fun _ hu r hr => hu.setV (.inl ⟨r, mem_regsTo.1 hr, rfl⟩) _
  obtain ⟨v, hv⟩ := loadRegs_eq_v (regsTo x) s
  rw [hv] at loaded ⊢
  exact loaded.indexAfter (fun hq => .inr ⟨hq, rfl⟩) x

/-- An instruction that raises no fault answers a next state in which only its "Writes" line may differ (R113). -/
theorem exec_onlyChanges_mayWrite {i : Instr} (h : faultOf s i = none) :
    ∃ t, exec i s = .next t ∧ OnlyChanges (mayWrite s i) s t := by
  have start : OnlyChanges (mayWrite s i) s s := .refl
  cases i with
  | cls => exact ⟨_, rfl, setDisp_onlyChanges (fun k => ⟨k, rfl⟩) s _⟩
  | ret =>
    have hne : s.stack ≠ [] := fun e => not_of_ite_fault h (by rw [State.sp_eq, e]; rfl)
    obtain ⟨w, rest, hs⟩ := List.exists_cons_of_ne_nil hne
    exact ⟨_, exec_ret_of_cons hs, (start.setStack (.inr rfl) _).setPc (.inl rfl) _⟩
  | jp | jpV0 => exact ⟨_, rfl, start.setPc rfl _⟩
  | call nnn =>
    exact ⟨_, exec_call_of_not_full (not_of_ite_fault h), (start.setStack (.inr rfl) _).setPc (.inl rfl) _⟩
  | seImm | sneImm | seReg | sneReg => exact ⟨_, rfl, start.skipIf rfl _⟩
  | ldImm | addImm | ldReg | orReg | andReg | xorReg | rnd | ldVxDt => exact ⟨_, rfl, start.setV rfl _⟩
  | addReg | subReg | subnReg => exact ⟨_, rfl, (start.setV (.inl rfl) _).setV (.inr rfl) _⟩
  | shr x y | shl x y =>
    exact ⟨_, rfl, ((start.shiftSource (.inr rfl) y).setV (.inl rfl) _).setV (.inr rfl) _⟩
  | ldI | addI | ldF => exact ⟨_, rfl, start.setI rfl _⟩
  | drw x y n => exact ⟨_, exec_drw_of_inside (not_of_ite_fault h), drawSprite_onlyChanges_mayWrite x y n s⟩
  | skp x =>
    obtain ⟨k, hk⟩ := exists_key_of_not_gt (not_of_ite_fault h)
    exact ⟨_, exec_skp_of_key hk, start.skipIf rfl _⟩
  | sknp x =>
    obtain ⟨k, hk⟩ := exists_key_of_not_gt (not_of_ite_fault h)
    exact ⟨_, exec_sknp_of_key hk, start.skipIf rfl _⟩
  | ldVxK x => exact ⟨_, rfl, awaitKey_onlyChanges_mayWrite x s⟩
  | ldDtVx => exact ⟨_, rfl, start.setDt rfl _⟩
  | ldStVx => exact ⟨_, rfl, start.setSt rfl _⟩
  | ldB x => exact ⟨_, exec_ldB_of_inside (Nat.le_of_not_gt (not_of_ite_fault h)), storeDigits_onlyChanges x s _⟩
  | storeRegs x =>
    obtain ⟨m, hexec, -, others⟩ := exec_storeRegs (Nat.le_of_not_gt (not_of_ite_fault h))
    refine ⟨_, hexec, (start.setMem fun a ha => others a fun r hr e => ha ?_).indexAfter ?_ x⟩
    · exact .inl ⟨r, hr, congrArg Piece.mem e⟩
    · exact fun hq => .inr ⟨hq, rfl⟩
  | loadRegs x =>
    exact ⟨_, exec_loadRegs_of_inside (Nat.le_of_not_gt (not_of_ite_fault h)), loadRegs_onlyChanges x s⟩

end Sys2Proof.Machine

section

open Sys2Proof Sys2Proof.Machine

/-- Settles O23, instruction by instruction: each update it makes is of a piece its "Writes" line names. -/
theorem executeChangesOnlyWhatItWrites : Obligations.ExecuteChangesOnlyWhatItWrites :=
  fun _ _ => exec_onlyChanges_mayWrite

end
end

section
/-! PROOF. One step (`40_step_cycle.md` R111, R112, R116, R117): the interval before it, the fetch that faults, the
instruction it runs, and the halted CPU that has none. -/

namespace Sys2Proof.Machine

/-! ### The interval -/

theorem countDown_zero (b : Byte) : countDown 0 b = b := BitVec.eq_of_toNat_eq (countDown_toNat 0 b)

/-- One tick, then `n` more (R256). -/
theorem countDown_countOne (n : Nat) (b : Byte) : countDown n (countOne b) = countDown (n + 1) b := by
  apply BitVec.eq_of_toNat_eq
  simp only [countDown_toNat, countOne_toNat]
  omega

/-- `n` ticks in closed form (R256). -/
theorem ticks_eq (n : Nat) (s : State) :
    State.ticks n s = (s.setDt (countDown n s.dt)).setSt (countDown n s.st) := by
  induction n generalizing s with
  | zero =>
    rw [countDown_zero, countDown_zero]
    rfl
  | succ n ih =>
    rw [State.ticks, ih, ← countDown_countOne, ← countDown_countOne]
    rfl

/-! ### The fetch -/

/-- The sub-cause of a fetch fault, the range checked first (R112, R241). -/
theorem fetchCause_of_bad {a : Word} (h : a.toNat > 0x0FFE ∨ a.toNat % 2 = 1) :
    fetchCause a = some (if a.toNat > 0x0FFE then .outOfRange else .misaligned) := by
  unfold fetchCause
  split
  · rfl
  · next hle =>
    have odd : a.getLsbD 0 = true := by
      rw [BitVec.getLsbD, Nat.testBit_zero]
      exact decide_eq_true (h.resolve_left hle)
    rw [if_pos odd]

/-- A step whose fetch faults (R112, R246). -/
theorem step_of_fetchCause {s : State} {c : FetchCause} (hf : s.fault = none) (hc : fetchCause s.pc = some c) :
    step s = .next (s.elapse.takeFault .fetchFault none s.pc) := by
  simp only [step, hf, State.fetchDecode, State.elapse_pc, hc]

/-- A step whose fetch may happen runs the decoded instruction, past the word (R111, R112). -/
theorem step_of_decode {s : State} {i : Instr} (hf : s.fault = none) (hle : s.pc.toNat ≤ 0x0FFE)
    (heven : s.pc.toNat % 2 = 0) (hd : decode s.fetchWord = some i) : step s = exec i s.elapse.advance := by
  have hc : fetchCause s.pc = none := (fetchCause_eq_none_iff s.pc).2 ⟨hle, heven⟩
  simp only [step, hf, State.fetchDecode, State.elapse_pc, hc, State.fetchWord_elapse, hd]

/-- The same for a word known as an encoding (R85). -/
theorem step_of_encode {s : State} {i : Instr} (hf : s.fault = none) (hle : s.pc.toNat ≤ 0x0FFE)
    (heven : s.pc.toNat % 2 = 0) (hw : s.fetchWord = encode i) : step s = exec i s.elapse.advance :=
  step_of_decode hf hle heven (hw ▸ decode_encode i)

/-! ### Jumps to the word itself, and FX0A -/

/-- A jump to the fetch address undoes the advance of the fetch (R118). -/
theorem advance_setPc_of_eq {s : State} {w : Word} (h : w = s.pc) : s.advance.setPc w = s := by
  rw [h]
  rfl

/-- Without an event FX0A undoes the advance of the fetch (R115, R223). -/
theorem advance_awaitKey_none (s : State) (x : Reg) : s.advance.awaitKey x none = s.setWait (some x) := by
  have back : s.advance.pc - 2 = s.pc := BitVec.add_sub_cancel s.pc 2
  rw [State.awaitKey, back]
  rfl

/-- With an event FX0A takes the key (R223). -/
theorem getV_awaitKey_some (s : State) (x : Reg) (k : Key) : ((s.awaitKey x (some k)).getV x).toNat = k.val := by
  rw [State.awaitKey, State.getV_setWait, State.getV_setV, if_pos rfl, BitVec.toNat_ofNat]
  omega

/-! ### The halted CPU -/

/-- No host action but a reset and a load touches the latched record (R249). -/
theorem perform_fault {s : State} {a : HostAction} (hr : a ≠ .reset) (hl : ∀ font image, a ≠ .load font image) :
    (s.perform a).fault = s.fault := by
  cases a with
  | reset => exact absurd rfl hr
  | load font image => exact absurd rfl (hl font image)
  | tick | loadFontset | setQuirkShift | setQuirkJump | setQuirkIndex => rfl

/-- A load that succeeds leaves no fault (R249, R282). -/
theorem hostLoad_fault {font : Font} {image : List Byte} {s t : State} (h : hostLoad font image s = .ok t) :
    t.fault = none := by
  obtain ⟨-, rfl⟩ := loadedState_of_hostLoad h
  rfl

theorem step_of_halted {s : State} {r : FaultRecord} (h : s.fault = some r) : step s = .fault (.halted r) := by
  simp only [step, h]

end Sys2Proof.Machine

section

open Sys2Proof Sys2Proof.Machine

/-- Settles O12: the closed form of the ticks, for any number of them. -/
theorem intervalIsSomeTicks : Obligations.IntervalIsSomeTicks := by
  intro s
  rw [ticks_eq]
  rfl

/-- Settles O16: the fetch faults after the interval, with the sub-cause read off `PC`. -/
theorem badFetchFaults : Obligations.BadFetchFaults := by
  intro s hf hbad
  have hc := fetchCause_of_bad hbad
  refine ⟨_, step_of_fetchCause hf hc, rfl, congrArg (Option.map FaultDetail.fetchCause) hc, ?_⟩
  exact (OnlyChanges.refl.elapse (by simp) (by simp) (by simp)).setFault (by simp) _

/-- Settles O34: the jump puts `PC` back at the word, so the interval is all that is left. -/
theorem idleLoopStays : Obligations.IdleLoopStays := by
  intro s a hf hpc hle heven hw
  have target : zextAddr a = s.elapse.pc := BitVec.eq_of_toNat_eq ((zextAddr_toNat a).trans hpc.symm)
  have hstep : step s = .next (s.elapse.advance.setPc (zextAddr a)) :=
    step_of_encode hf (hpc ▸ hle) (hpc ▸ heven) hw
  rw [advance_setPc_of_eq target] at hstep
  exact ⟨_, hstep, OnlyChanges.refl.elapse (by simp) (by simp) (by simp)⟩

/-- Settles O59, event or no event of the step's own draw. -/
theorem waitHoldsTheProgramCounter : Obligations.WaitHoldsTheProgramCounter := by
  intro x s hf hle heven hw
  have hstep : step s = .next (s.elapse.advance.awaitKey x (Config.keyEvent (s.stepNo + 1))) :=
    step_of_encode hf hle heven hw
  refine ⟨_, hstep, ?_⟩
  cases Config.keyEvent (s.stepNo + 1) with
  | none =>
    rw [advance_awaitKey_none]
    exact ⟨rfl, rfl, (OnlyChanges.refl.elapse (by simp) (by simp) (by simp)).setWait (by simp) _⟩
  | some k =>
    refine ⟨rfl, rfl, getV_awaitKey_some _ x k, ?_⟩
    exact (((OnlyChanges.refl.elapse (by simp) (by simp) (by simp)).setPc (by simp) _).setV (by simp) _).setWait
      (by simp) _

/-- Settles O15: the word at `PC` is the two bytes the statement joins, and the interval moves neither. -/
theorem stepRunsDecodedInstruction : Obligations.StepRunsDecodedInstruction :=
  fun _ _ hf hle heven hd =>
    ⟨step_of_decode hf hle heven hd, OnlyChanges.refl.elapse (by simp) (by simp) (by simp)⟩

/-- Settles O19: no step while halted, the tick's arithmetic, and the record over each host action. -/
theorem haltedUntilReset : Obligations.HaltedUntilReset :=
  fun s _ h => ⟨step_of_halted h, h, countOne_toNat s.dt, fun _ hr hl => (perform_fault hr hl).trans h, rfl,
    fun _ _ _ => hostLoad_fault⟩

end
end

section
/-! PROOF. Control transfer (`41_flow.md`): the faults of an empty and of a full stack, the skips, and the sum of
BNNN. -/

namespace Sys2Proof.Machine

variable {i : Instr} {s : State}

/-! ### Return and call -/

/-- 00EE on an empty stack (R130, R244). -/
theorem exec_ret_of_nil (h : s.stack = []) : exec .ret s = raise .stackUnderflow .ret s := by
  have hp : s.pop = none := by simp only [State.pop, h]
  simp only [exec, execRet, hp]

/-- 2NNN on a full stack (R132). -/
theorem exec_call_of_full {nnn : Addr} (h : s.stackDepth = some s.sp) :
    exec (.call nnn) s = raise .stackOverflow (.call nnn) s := by
  have hp : s.push s.pc = none := if_pos (s.full_iff.2 h)
  simp only [exec, execCall, hp]

/-- An instruction that raises latches the record of its word and address, and writes nothing else (R240). -/
theorem latches_of_exec_raise {kind : FaultKind} (h : exec i s = raise kind i s) :
    ∃ t, exec i s = .next t ∧ t.fault = some ⟨kind, some (encode i), s.pc - 2⟩ ∧
      OnlyChanges (fun p => p = .fault) s t :=
  ⟨_, h.trans (raise_eq kind i s), rfl, OnlyChanges.refl.setFault (by simp) _⟩

/-! ### Skips -/

theorem skipIf_pc_toNat (s : State) (b : Bool) :
    (s.skipIf b).pc.toNat = if b then (s.pc.toNat + 2) % 65536 else s.pc.toNat := by
  cases b with
  | true => exact BitVec.toNat_add s.pc 2
  | false => rfl

/-- An instruction that skips on a test of `c` adds 2 to `PC` when `c` holds, and writes nothing else (R138). -/
theorem skips_of_exec_skipIf {b : Bool} {c : Prop} [Decidable c] (h : exec i s = .next (s.skipIf b))
    (hb : b = true ↔ c) :
    ∃ t, exec i s = .next t ∧ t.pc.toNat = (if c then (s.pc.toNat + 2) % 65536 else s.pc.toNat) ∧
      OnlyChanges (fun p => p = .pc) s t := by
  refine ⟨_, h, ?_, OnlyChanges.refl.skipIf (by simp) _⟩
  simp only [skipIf_pc_toNat, hb]

/-! ### The offset jump -/

/-- The high nibble of the literal is the X field of the word BNNN (R83, R137). -/
theorem opX_encode_jpV0 (nnn : Addr) : opX (encode (.jpV0 nnn)) = highNibble nnn := by
  have word : (encode (.jpV0 nnn)).toNat = 0xB * 4096 + nnn.toNat := toNat_group_addr 0xB#4 nnn
  have nibble : (highNibble nnn).val = nnn.toNat / 256 % 16 := by
    simp [highNibble, BitVec.extractLsb'_toNat, Nat.shiftRight_eq_div_pow]
  apply Fin.ext
  rw [opX_val, word, nibble]
  omega

theorem jumpReg_eq (s : State) (nnn : Addr) :
    s.jumpReg nnn = if s.quirkJump then opX (encode (.jpV0 nnn)) else 0 := by
  rw [opX_encode_jpV0]
  rfl

/-- The sum of BNNN fits 16 bits, so it is not reduced (R137). -/
theorem jumpSum_toNat (b : Byte) (nnn : Addr) : (zextByte b + zextAddr nnn).toNat = b.toNat + nnn.toNat := by
  have := b.isLt
  have := nnn.isLt
  rw [BitVec.toNat_add, zextByte_toNat, zextAddr_toNat]
  omega

end Sys2Proof.Machine

section

open Sys2Proof Sys2Proof.Machine

/-- Settles O33: both summands are too small for a carry out of 16 bits, and the register's field is that of the
word. -/
theorem offsetJump : Obligations.OffsetJump := by
  intro nnn s
  have sum := jumpSum_toNat (s.getV (s.jumpReg nnn)) nnn
  refine ⟨⟨encode_selectsRow (.jpV0 nnn), opNNN_group_addr _ nnn⟩, _, rfl, ?_, ?_,
    OnlyChanges.refl.setPc (by simp) _⟩
  · rw [← jumpReg_eq]
    exact sum
  · have := (s.getV (s.jumpReg nnn)).isLt
    have := nnn.isLt
    exact sum.trans_le (by omega)

/-- Settles O27, on an empty stack and on one with an entry. -/
theorem returnPops : Obligations.ReturnPops := by
  refine ⟨rfl, fun s h => latches_of_exec_raise (exec_ret_of_nil h), fun s w rest h => ⟨fun hinv => ?_, ?_⟩⟩
  · exact hinv.stackEntries w (h ▸ List.mem_cons_self)
  · exact ⟨_, exec_ret_of_cons h, rfl, rfl, (OnlyChanges.refl.setStack (.inr rfl) _).setPc (.inl rfl) _⟩

/-- Settles O28: the literal is zero-extended. -/
theorem jumpGoesToLiteral : Obligations.JumpGoesToLiteral :=
  fun nnn _ => ⟨⟨encode_selectsRow (.jp nnn), opNNN_group_addr _ nnn⟩, _, rfl, zextAddr_toNat nnn,
    OnlyChanges.refl.setPc (by simp) _⟩

/-- Settles O29, with room on the stack and on a full one. -/
theorem callPushesReturnAddress : Obligations.CallPushesReturnAddress := by
  refine fun nnn s => ⟨fun room => ?_, fun full => latches_of_exec_raise (exec_call_of_full full)⟩
  exact ⟨_, exec_call_of_not_full room, zextAddr_toNat nnn, rfl,
    (OnlyChanges.refl.setStack (.inr rfl) _).setPc (.inl rfl) _⟩

/-- Settles O30: the entry the call pushed is the one the return pops. -/
theorem callThenReturn : Obligations.CallThenReturn :=
  fun _ _ room => ⟨_, exec_call_of_not_full room, fun _ h => ⟨_, exec_ret_of_cons h, rfl, rfl⟩⟩

/-- Settles O31: the two words, and the two skips on the opposite tests. -/
theorem literalSkips : Obligations.LiteralSkips := by
  intro x nn s
  refine ⟨⟨encode_selectsRow (.seImm x nn), opX_group_reg_byte 0x3#4 nn x, opNN_group_reg_byte 0x3#4 _ nn⟩,
    ⟨encode_selectsRow (.sneImm x nn), opX_group_reg_byte 0x4#4 nn x, opNN_group_reg_byte 0x4#4 _ nn⟩, ?_, ?_⟩
  · exact skips_of_exec_skipIf rfl beq_iff_eq
  · exact skips_of_exec_skipIf rfl bne_iff_ne

/-- Settles O32: the ignored nibble is in neither test. -/
theorem registerSkips : Obligations.RegisterSkips :=
  fun _ _ _ _ => ⟨skips_of_exec_skipIf rfl beq_iff_eq, skips_of_exec_skipIf rfl bne_iff_ne⟩

end
end

section
/-! PROOF. Arithmetic and logic (`42_alu.md`): flags and differences as numbers, and what the instructions leave that
write one register, or the flag and then a register (R163). -/

namespace Sys2Proof.Machine

/-! ### Flags and differences as numbers -/

/-- The flag that is a bit of the operand, the one a shift moves out (R158, R160). -/
theorem flagByte_getLsbD_toNat (p : Byte) (k : Nat) : (flagByte (p.getLsbD k)).toNat = p.toNat / 2 ^ k % 2 := by
  have value : ∀ b : Bool, (flagByte b).toNat = b.toNat := by decide
  rw [value, ← BitVec.testBit_toNat, Nat.toNat_testBit]

theorem lowBit_toNat (p : Byte) : (lowBit p).toNat = p.toNat % 2 := by
  rw [lowBit, flagByte_getLsbD_toNat, pow_zero, Nat.div_one]

theorem highBit_toNat (p : Byte) : (highBit p).toNat = p.toNat / 128 := by
  have := p.isLt
  rw [highBit, flagByte_getLsbD_toNat]
  omega

theorem noBorrow_toNat (p q : Byte) : (noBorrow p q).toNat = if p.toNat > q.toNat then 1 else 0 := by
  simp only [noBorrow, flagByte, decide_eq_true_eq]
  split <;> rfl

theorem carry_eq (p q : Byte) : carry p q = if p.toNat + q.toNat > 255 then 1 else 0 := by
  simp only [carry, flagByte, decide_eq_true_eq]

/-- The difference modulo 256, in natural numbers (R162). -/
theorem sub_toNat_mod (p q : Byte) : (p - q).toNat = (p.toNat + 256 - q.toNat) % 256 := by
  have := q.isLt
  rw [BitVec.toNat_sub]
  omega

/-! ### The writes -/

theorem getV_setV_same (s : State) (x : Reg) (b : Byte) : (s.setV x b).getV x = b := by simp

theorem setV_onlyChanges (s : State) (x : Reg) (b : Byte) : OnlyChanges (fun p => p = .v x) s (s.setV x b) :=
  OnlyChanges.refl.setV (by simp) b

/-- What an instruction leaves that writes the flag and then its destination: both values, unless the destination is the
flag, where the later write wins (R163, the spec's D8). -/
theorem writes_flag_then_reg {i : Instr} {s u : State} {x : Reg} {f b : Byte}
    (hu : OnlyChanges (fun p => p = .v VF ∨ p = .v x) s u) (h : exec i s = .next ((u.setV VF f).setV x b)) :
    ∃ t, exec i s = .next t ∧ t.getV x = b ∧ (x ≠ VF → t.getV VF = f) ∧
      OnlyChanges (fun p => p = .v VF ∨ p = .v x) s t := by
  refine ⟨_, h, getV_setV_same _ x b, fun hx => ?_, (hu.setV (.inl rfl) f).setV (.inr rfl) b⟩
  rw [State.getV_setV, if_neg (Ne.symm hx), getV_setV_same]

/-- `V[a] - V[b]` after the flag is written: where one of the two is `VF`, the flag is read (R163, the spec's D8). -/
theorem sub_after_flag_toNat (s : State) (f : Byte) (a b : Reg) :
    ((s.setV VF f).getV a - (s.setV VF f).getV b).toNat =
      if a = VF then (if b = VF then 0 else (f.toNat + 256 - (s.getV b).toNat) % 256)
      else if b = VF then ((s.getV a).toNat + 256 - f.toNat) % 256
      else ((s.getV a).toNat + 256 - (s.getV b).toNat) % 256 := by
  rw [sub_toNat_mod, State.getV_setV, State.getV_setV]
  split_ifs
  · have := f.isLt
    omega
  · rfl
  · rfl
  · rfl

/-! ### The shifts -/

/-- The common form of the two shifts, on the registers as they now stand: the flag, then the register (R158, R160). -/
def State.shiftBy (flag shift : Byte → Byte) (s : State) (x : Reg) : State :=
  let t := s.setV VF (flag (s.getV x))
  t.setV x (shift (t.getV x))

theorem exec_shr (x y : Reg) (s : State) :
    exec (.shr x y) s = .next ((s.shiftSource x y).shiftBy lowBit (· >>> 1) x) := rfl

theorem exec_shl (x y : Reg) (s : State) :
    exec (.shl x y) s = .next ((s.shiftSource x y).shiftBy highBit (· <<< 1) x) := rfl

/-- The value a shift starts from, in the register it shifts (R29, R158, R160). -/
theorem getV_shiftSource (s : State) (x y : Reg) :
    (s.shiftSource x y).getV x = s.getV (if s.quirkShift then y else x) := by
  rw [State.shiftSource_eq]
  split
  · exact getV_setV_same s x _
  · rfl

/-- What a shift leaves: the bit moved out in `VF` and the shifted value in its destination, or, where the destination
is `VF`, the shifted flag (R163, the spec's D8). -/
theorem shift_writes {i : Instr} {s : State} {x y : Reg} {flag shift : Byte → Byte}
    (h : exec i s = .next ((s.shiftSource x y).shiftBy flag shift x)) :
    ∃ t, exec i s = .next t ∧
      (x ≠ VF → t.getV VF = flag (s.getV (if s.quirkShift then y else x)) ∧
        t.getV x = shift (s.getV (if s.quirkShift then y else x))) ∧
      (x = VF → t.getV VF = shift (flag (s.getV (if s.quirkShift then y else x)))) ∧
      OnlyChanges (fun p => p = .v VF ∨ p = .v x) s t := by
  have source : OnlyChanges (fun p => p = .v VF ∨ p = .v x) s (s.shiftSource x y) := .shiftSource .refl (.inr rfl) y
  obtain ⟨t, he, hx, hf, frame⟩ := writes_flag_then_reg source h
  rw [State.getV_setV, getV_shiftSource] at hx
  rw [getV_shiftSource] at hf
  refine ⟨t, he, fun hne => ⟨hf hne, ?_⟩, fun heq => ?_, frame⟩
  · rw [hx, if_neg hne]
  · rw [if_pos heq] at hx
    exact heq ▸ hx

/-! ### Encoding -/

/-- The fields of a word of group 8 (R81, R85). -/
theorem group8_fields (x y : Reg) (n : Nibble) :
    (0x8#4 ++ regBits x ++ regBits y ++ n : Word) &&& 0xF000 = 0x8000 ∧
      opX (0x8#4 ++ regBits x ++ regBits y ++ n) = x ∧ opY (0x8#4 ++ regBits x ++ regBits y ++ n) = y :=
  ⟨(Laws.SelectsRow.group_reg_reg _ _ _ _).trans rfl, by simp, by simp⟩

end Sys2Proof.Machine

section

open Sys2Proof Sys2Proof.Machine

/-- Settles O39: the flag, then the difference of the registers as the flag left them. -/
theorem subtractRegisters : Obligations.SubtractRegisters := by
  intro x y s
  obtain ⟨t, he, hx, hf, frame⟩ := writes_flag_then_reg (i := .subReg x y) (s := s) .refl rfl
  refine ⟨t, he, ⟨fun h => ?_, ?_⟩, frame⟩
  · rw [hf h, noBorrow_toNat]
  · rw [hx, sub_after_flag_toNat, noBorrow_toNat]

/-- Settles O40: as O39 with the operands exchanged, so the two tests for `VF` come in the other order. -/
theorem subtractReversed : Obligations.SubtractReversed := by
  intro x y s
  obtain ⟨t, he, hx, hf, frame⟩ := writes_flag_then_reg (i := .subnReg x y) (s := s) .refl rfl
  refine ⟨t, he, ⟨fun h => ?_, ?_⟩, frame⟩
  · rw [hf h, noBorrow_toNat]
  · rw [hx, sub_after_flag_toNat, noBorrow_toNat]
    by_cases hX : x = VF
    · simp only [hX, if_true]
    · simp only [hX, if_false]

/-- Settles O41: with X = 15 the byte shifted is the flag, at most 1. -/
theorem shiftRight : Obligations.ShiftRight := by
  intro x y s
  obtain ⟨t, he, other, same, frame⟩ := shift_writes (exec_shr x y s)
  have half (b : Byte) : (b >>> 1).toNat = b.toNat / 2 := by
    rw [BitVec.toNat_ushiftRight, Nat.shiftRight_eq_div_pow, pow_one]
  refine ⟨t, he, ⟨fun h => ?_, fun h => ?_⟩, frame⟩
  · obtain ⟨hf, hx⟩ := other h
    rw [hf, hx, lowBit_toNat, half]
    exact ⟨rfl, rfl⟩
  · rw [same h, half, lowBit_toNat]
    omega

/-- Settles O42: with X = 15 the byte shifted is the flag, so bit 7 ends in bit 1. -/
theorem shiftLeft : Obligations.ShiftLeft := by
  intro x y s
  obtain ⟨t, he, other, same, frame⟩ := shift_writes (exec_shl x y s)
  have double (b : Byte) : (b <<< 1).toNat = b.toNat * 2 % 256 := by
    rw [BitVec.toNat_shiftLeft, Nat.shiftLeft_eq, pow_one]
  refine ⟨t, he, ⟨fun h => ?_, fun h => ?_⟩, frame⟩
  · obtain ⟨hf, hx⟩ := other h
    rw [hf, hx, highBit_toNat, double]
    exact ⟨rfl, rfl⟩
  · have := (s.getV (if s.quirkShift then y else x)).isLt
    rw [same h, double, highBit_toNat]
    split_ifs <;> omega

/-- Settles O35: the word, and the one write. -/
theorem loadLiteral : Obligations.LoadLiteral :=
  fun x nn s => ⟨⟨encode_selectsRow (.ldImm x nn), opX_group_reg_byte 0x6#4 nn x, opNN_group_reg_byte 0x6#4 _ nn⟩,
    _, rfl, getV_setV_same s x nn, setV_onlyChanges s x nn⟩

/-- Settles O36: the word, and the one write. -/
theorem addLiteral : Obligations.AddLiteral := by
  intro x nn s
  refine ⟨⟨encode_selectsRow (.addImm x nn), opX_group_reg_byte 0x7#4 nn x, opNN_group_reg_byte 0x7#4 _ nn⟩,
    _, rfl, ?_, setV_onlyChanges s x _⟩
  rw [getV_setV_same, BitVec.toNat_add]

/-- Settles O37: the four words, which differ in the low nibble, and the one write of each instruction. -/
theorem copyAndLogic : Obligations.CopyAndLogic := by
  intro x y s
  have low := opN_group_reg_reg 0x8#4 (regBits x) (regBits y)
  refine ⟨?_, ⟨low 0, low 1, low 2, low 3⟩, ⟨_, rfl, getV_setV_same s x _, setV_onlyChanges s x _⟩,
    ⟨_, rfl, fun j => ?_, setV_onlyChanges s x _⟩, ⟨_, rfl, fun j => ?_, setV_onlyChanges s x _⟩,
    ⟨_, rfl, fun j => ?_, setV_onlyChanges s x _⟩⟩
  · simp only [List.forall_mem_cons]
    exact ⟨group8_fields x y _, group8_fields x y _, group8_fields x y _, group8_fields x y _, by simp⟩
  · rw [getV_setV_same, BitVec.getLsbD_or]
  · rw [getV_setV_same, BitVec.getLsbD_and]
  · rw [getV_setV_same, BitVec.getLsbD_xor]

/-- Settles O38: the sum is of the registers before the flag is written. -/
theorem addRegisters : Obligations.AddRegisters := by
  intro x y s
  obtain ⟨t, he, hx, hf, frame⟩ := writes_flag_then_reg (i := .addReg x y) (s := s) .refl rfl
  refine ⟨t, he, ?_, fun h => ?_, frame⟩
  · rw [hx, BitVec.toNat_add]
  · rw [hf h, carry_eq]

/-- Settles O43: the draw is masked, whatever it is. -/
theorem randomIsMasked : Obligations.RandomIsMasked := by
  intro x nn s
  refine ⟨_, rfl, fun j => ?_, fun h => ?_, setV_onlyChanges s x _⟩
  · rw [getV_setV_same, BitVec.getLsbD_and]
  · rw [getV_setV_same, h]
    exact BitVec.and_zero

end
end

section
/-! PROOF. The index register and memory (`43_index_memory.md`): the transfers FX55 and FX65 inside and past memory, `I`
after them (R187), and the decimal digits of FX33. -/

namespace Sys2Proof.Machine

variable {i : Instr} {s t : State} {x : Reg}

/-! ### The frame -/

theorem OnlyChanges.mono {W W' : Piece → Prop} (h : OnlyChanges W s t) (hW : ∀ p, W p → W' p) :
    OnlyChanges W' s t := fun p hp => h p (mt (hW p) hp)

/-- The frame of an instruction whose next state is known (R113). -/
theorem onlyChanges_of_exec (h : faultOf s i = none) (he : exec i s = .next t) : OnlyChanges (mayWrite s i) s t := by
  obtain ⟨u, hu, frame⟩ := exec_onlyChanges_mayWrite h
  obtain rfl : u = t := Host.Outcome.next.inj (hu.symm.trans he)
  exact frame

/-! ### The transfers FX55 and FX65 -/

/-- A transfer whose highest address is past memory faults (R60, R184, R185). -/
theorem exec_transfer_of_past (hi : i = .storeRegs x ∨ i = .loadRegs x) (h : s.i.toNat + x.val > 4095) :
    exec i s = raise .memoryBoundsFault i s := by
  have past : s.pastMemory x.val = true := (s.pastMemory_iff x.val).2 h
  rcases hi with rfl | rfl
  · exact if_pos past
  · exact if_pos past

/-- Inside memory the sum `I + X + 1` is at most 4096, so it is not reduced (R187). -/
theorem indexAfter_i_toNat (h : s.i.toNat + x.val ≤ 4095) :
    (s.indexAfter x).i.toNat = if s.quirkIndex then s.i.toNat + x.val + 1 else s.i.toNat := by
  rw [State.indexAfter_eq, State.setI_i]
  split
  · rw [BitVec.toNat_add, BitVec.toNat_ofNat]
    omega
  · rfl

/-- `I` after a transfer inside memory: what comes before the last line moves neither `I` nor the quirk flag (R187). -/
theorem i_toNat_of_exec_transfer (hi : i = .storeRegs x ∨ i = .loadRegs x) (h : s.i.toNat + x.val ≤ 4095)
    (he : exec i s = .next t) : t.i.toNat = if s.quirkIndex then s.i.toNat + x.val + 1 else s.i.toNat := by
  rcases hi with rfl | rfl
  · obtain ⟨m, hexec, -⟩ := exec_storeRegs h
    obtain rfl := Host.Outcome.next.inj (hexec.symm.trans he)
    exact indexAfter_i_toNat (s := s.setMem m) h
  · obtain ⟨v, hv⟩ := loadRegs_eq_v (regsTo x) s
    obtain rfl := Host.Outcome.next.inj ((exec_loadRegs_of_inside h).symm.trans he)
    rw [hv]
    exact indexAfter_i_toNat (s := { s with v := v }) h

/-- The registers FX65 leaves (R185). -/
theorem getV_loadRegs_indexAfter {r : Reg} (hr : r ≤ x) :
    (((regsTo x).foldl State.loadReg s).indexAfter x).getV r = s.readByte (s.i.toNat + r.val) := by
  rw [State.indexAfter_eq, State.getV_setI, loadRegs_getV, if_pos (mem_regsTo.2 hr)]

/-! ### Decimal digits -/

/-- FX33 past memory (R60, R183). -/
theorem exec_ldB_of_past (h : s.i.toNat + 2 > 4095) : exec (.ldB x) s = raise .memoryBoundsFault (.ldB x) s :=
  if_pos ((s.pastMemory_iff 2).2 h)

theorem hundreds_toNat (b : Byte) : (hundreds b).toNat = b.toNat / 100 := by
  have := b.isLt
  rw [hundreds, BitVec.toNat_ofNat]
  omega

theorem tens_toNat (b : Byte) : (tens b).toNat = b.toNat / 10 % 10 := by
  rw [tens, BitVec.toNat_ofNat]
  omega

theorem units_toNat (b : Byte) : (units b).toNat = b.toNat % 10 := by
  rw [units, BitVec.toNat_ofNat]
  omega

/-- No store of FX33 overwrites another (R183). -/
theorem storeDigits_readByte (s : State) (b : Byte) :
    (s.storeDigits b).readByte (s.ea 0) = hundreds b ∧ (s.storeDigits b).readByte (s.ea 1) = tens b ∧
      (s.storeDigits b).readByte (s.ea 2) = units b := by
  simp [State.storeDigits, State.ea]

/-! ### Writes of `I` alone -/

theorem setI_onlyChanges (s : State) (w : Word) : OnlyChanges (fun p => p = .i) s (s.setI w) :=
  OnlyChanges.refl.setI (by simp) w

end Sys2Proof.Machine

section

open Sys2Proof Sys2Proof.Machine

/-- Settles O48: the bytes from `exec_storeRegs`, `I` from the last line, the frame from the "Writes" line. -/
theorem storeRegisters : Obligations.StoreRegisters := by
  refine fun x s => ⟨fun inside => ?_, fun past => latches_of_exec_raise (exec_transfer_of_past (.inl rfl) past)⟩
  have noFault : faultOf s (.storeRegs x) = none := if_neg inside.not_gt
  obtain ⟨m, he, stored, -⟩ := exec_storeRegs inside
  refine ⟨_, he, fun r hr => ?_, i_toNat_of_exec_transfer (.inl rfl) inside he,
    (onlyChanges_of_exec noFault he).mono fun _ => Or.imp_right And.right⟩
  rw [State.indexAfter_eq, State.readByte_setI, State.readByte_setMem]
  exact stored r hr

/-- Settles O49: as O48, the registers in the place of the bytes. -/
theorem loadRegisters : Obligations.LoadRegisters := by
  refine fun x s => ⟨fun inside => ?_, fun past => latches_of_exec_raise (exec_transfer_of_past (.inr rfl) past)⟩
  have noFault : faultOf s (.loadRegs x) = none := if_neg inside.not_gt
  have he := exec_loadRegs_of_inside inside
  exact ⟨_, he, fun r hr => getV_loadRegs_indexAfter hr, i_toNat_of_exec_transfer (.inr rfl) inside he,
    (onlyChanges_of_exec noFault he).mono fun _ => Or.imp_right And.right⟩

/-- Settles O50: a fault leaves `I` by its frame; inside memory the sum is exact. -/
theorem indexAfterTransfer : Obligations.IndexAfterTransfer := by
  intro x s i hi
  by_cases past : s.i.toNat + x.val > 4095
  · obtain ⟨t, he, -, frame⟩ := latches_of_exec_raise (exec_transfer_of_past hi past)
    refine ⟨t, he, ?_⟩
    rw [if_pos past]
    exact frame .i (by simp)
  · obtain ⟨t, he, -⟩ := exec_effect i s
    have index := i_toNat_of_exec_transfer hi (Nat.le_of_not_gt past) he
    refine ⟨t, he, ?_⟩
    rw [if_neg past]
    split_ifs at index ⊢
    · exact ⟨index, by omega⟩
    · exact BitVec.eq_of_toNat_eq index

/-- Settles O51: the load reads the bytes the store wrote. -/
theorem storeThenLoad : Obligations.StoreThenLoad := by
  intro x s inside
  obtain ⟨t, hstore, stored, -⟩ := (storeRegisters x s).1 inside
  refine ⟨t, hstore, fun u hmem hi => ?_⟩
  obtain ⟨r, hload, loaded, -⟩ := (loadRegisters x u).1 (hi ▸ inside)
  refine ⟨r, hload, fun q hq => ?_⟩
  rw [loaded q hq, hi, State.readByte, hmem]
  exact stored q hq

/-- Settles O44: the literal is zero-extended. -/
theorem loadIndex : Obligations.LoadIndex :=
  fun nnn s => ⟨⟨encode_selectsRow (.ldI nnn), opNNN_group_addr _ nnn⟩, _, rfl, zextAddr_toNat nnn,
    setI_onlyChanges s _⟩

/-- Settles O45: the sum of 16-bit words wraps by itself. -/
theorem addToIndex : Obligations.AddToIndex := by
  refine fun x s => ⟨_, rfl, ?_, setI_onlyChanges s _⟩
  rw [State.setI_i, BitVec.toNat_add, zextByte_toNat]

/-- Settles O46: five times a byte fits 16 bits. -/
theorem glyphAddress : Obligations.GlyphAddress := by
  refine fun x s => ⟨⟨encode_selectsRow (.ldF x), opX_group_reg_byte 0xF#4 0x29#8 x⟩, _, rfl, ?_, setI_onlyChanges s _⟩
  have := (s.getV x).isLt
  rw [State.setI_i, BitVec.toNat_ofNat, Config.glyphSize]
  omega

/-- Settles O47: the three stores are at different addresses. -/
theorem storeDecimalDigits : Obligations.StoreDecimalDigits := by
  refine fun x s => ⟨fun inside => ?_, fun past => latches_of_exec_raise (exec_ldB_of_past past)⟩
  obtain ⟨h0, h1, h2⟩ := storeDigits_readByte s (s.getV x)
  refine ⟨_, exec_ldB_of_inside inside, ?_, ?_, ?_, ?_⟩
  · rw [h0, hundreds_toNat]
  · rw [h1, tens_toNat]
  · rw [h2, units_toNat]
  · exact ((OnlyChanges.refl.writeByte (.inl rfl) _).writeByte (.inr (.inl rfl)) _).writeByte (.inr (.inr rfl)) _

end
end

section
/-! PROOF. The display (`44_display.md`): what a sprite leaves in the cells and in `VF`, inside and past memory, and the
same sprite drawn again. -/

namespace Sys2Proof.Machine

variable {s t : State} {vx vy : Byte}

/-! ### The cells of a sprite -/

theorem mem_spriteCells_iff {n : Nat} {k : CellIndex} : k ∈ s.spriteCells vx vy n ↔ s.underSprite vx vy n k := by
  refine ⟨underSprite_of_mem_spriteCells, ?_⟩
  rintro ⟨r, c, hr, hc, hbit, hk⟩
  exact mem_spriteCells.2 ⟨r, hr, c, hc, hbit, Fin.ext hk.symm⟩

/-- No two bits of a sprite share a cell, so a cell under it flips once, and the others stay (R201, R203). -/
theorem drawSprite_cell (s : State) (vx vy : Byte) {n : Nat} (hn : n < 16) (k : CellIndex) :
    (s.underSprite vx vy n k → (s.drawSprite vx vy n).cell k = s.cell k ^^^ 1) ∧
      (¬ s.underSprite vx vy n k → (s.drawSprite vx vy n).cell k = s.cell k) := by
  have hits := hits_cell _ (nodup_spriteCells s vx vy hn) (s.setV VF 0) k
  rw [← drawSprite_eq] at hits
  rw [← mem_spriteCells_iff]
  exact ⟨fun h => hits.trans (if_pos h), fun h => hits.trans (if_neg h)⟩

/-- `VF` after a sprite, a collision or none (R201). -/
theorem drawSprite_getV_flag (s : State) (vx vy : Byte) {n : Nat} (hn : n < 16) :
    ((∃ k, s.underSprite vx vy n k ∧ s.cell k = 1) → (s.drawSprite vx vy n).getV VF = 1) ∧
      ((¬ ∃ k, s.underSprite vx vy n k ∧ s.cell k = 1) → (s.drawSprite vx vy n).getV VF = 0) := by
  obtain ⟨collision, clear⟩ := hits_flag _ (nodup_spriteCells s vx vy hn) (s.setV VF 0)
  have hits : (∃ k ∈ s.spriteCells vx vy n, (s.setV VF 0).cell k = 1) ↔ ∃ k, s.underSprite vx vy n k ∧ s.cell k = 1 :=
    exists_congr fun _ => and_congr_left' mem_spriteCells_iff
  rw [hits, ← drawSprite_eq] at collision clear
  exact ⟨collision, fun h => (clear h).trans (getV_setV_same s VF 0)⟩

/-- Which cells a sprite covers depends on memory and `I` alone, and a draw writes neither. -/
theorem underSprite_iff_of_onlyChanges (h : OnlyChanges (fun p => p = .v VF ∨ ∃ k, p = .cell k) s t) {n : Nat}
    {k : CellIndex} : t.underSprite vx vy n k ↔ s.underSprite vx vy n k := by
  have index : t.i = s.i := h .i (by simp)
  have bytes (a : Nat) : t.readByte a = s.readByte a := h (.mem a) (by simp)
  simp only [State.underSprite, index, bytes]

/-- A display whose rows are all 0 has every cell 0 (R200). -/
theorem cell_setDisp_zero (s : State) (k : CellIndex) : (s.setDisp (Vector.replicate 32 0)).cell k = 0 := by
  simp [State.cell]

/-! ### The range check -/

/-- A sprite inside memory raises nothing, nor does one with no rows (R60, R201). -/
theorem faultOf_drw_of_inside {x y : Reg} {n : Nibble} (h : s.i.toNat + n.toNat ≤ 4096 ∨ n = 0) :
    faultOf s (.drw x y n) = none := by
  refine if_neg ?_
  rintro ⟨rows, past⟩
  rcases h with inside | rfl
  · omega
  · exact absurd rows (by decide)

/-- A sprite with a row past memory faults (R60, R201). -/
theorem exec_drw_of_past {x y : Reg} {n : Nibble} (hn : n ≠ 0) (h : s.i.toNat + n.toNat > 4096) :
    exec (.drw x y n) s = raise .memoryBoundsFault (.drw x y n) s := by
  have rows : n.toNat > 0 := Nat.pos_of_ne_zero fun e => hn (BitVec.eq_of_toNat_eq e)
  have past : s.pastMemory (n.toNat - 1) = true := (s.pastMemory_iff _).2 (by omega)
  exact if_pos (by simp [rows, past])

end Sys2Proof.Machine

section

open Sys2Proof Sys2Proof.Machine

/-- Settles O54: the draw hits each cell under the sprite once, and the frame is the "Writes" line. -/
theorem drawSprite : Obligations.DrawSprite := by
  intro x y n s inside
  have noFault : faultOf s (.drw x y n) = none := faultOf_drw_of_inside inside
  have he := exec_drw_of_inside (x := x) (y := y) (not_of_ite_fault noFault)
  have cells := drawSprite_cell s (s.getV x) (s.getV y) n.isLt
  obtain ⟨collision, clear⟩ := drawSprite_getV_flag s (s.getV x) (s.getV y) n.isLt
  exact ⟨_, he, fun k => (cells k).1, fun k => (cells k).2, collision, clear,
    (onlyChanges_of_exec noFault he).mono fun _ => Or.imp_right fun ⟨k, _, hp⟩ => ⟨k, hp⟩⟩

/-- Settles O56: the second draw covers the same cells, so a flipped one flips back, and one that was off at first is
on when the second draw comes to it. -/
theorem drawTwiceRestores : Obligations.DrawTwiceRestores := by
  intro x y n s hx hy inside
  obtain ⟨t, ht, flipped, kept, -, -, frame⟩ := drawSprite x y n s (.inl inside)
  have index : t.i = s.i := frame .i (by simp)
  have regX : t.getV x = s.getV x := frame (.v x) (by simpa using hx)
  have regY : t.getV y = s.getV y := frame (.v y) (by simpa using hy)
  obtain ⟨u, hu, flipped', kept', collision, -, -⟩ := drawSprite x y n t (.inl (index ▸ inside))
  simp only [regX, regY, underSprite_iff_of_onlyChanges frame] at flipped' kept' collision
  refine ⟨t, u, ht, hu, fun k => ?_, fun ⟨k, hk, off⟩ => collision ⟨k, hk, ?_⟩⟩
  · by_cases hk : s.underSprite (s.getV x) (s.getV y) n.toNat k
    · rw [flipped' k hk, flipped k hk, BitVec.xor_assoc, BitVec.xor_self, BitVec.xor_zero]
    · rw [kept' k hk, kept k hk]
  · rw [flipped k hk, off]
    rfl

/-- Settles O53: the word, the cells, and a frame of a display alone. -/
theorem clearScreen : Obligations.ClearScreen :=
  ⟨rfl, fun s => ⟨_, rfl, cell_setDisp_zero s, setDisp_onlyChanges (fun k => ⟨k, rfl⟩) s _⟩⟩

/-- Settles O55: the range check comes first, so the fault is latched in the state before the draw. -/
theorem drawPastMemoryFaults : Obligations.DrawPastMemoryFaults :=
  fun _ _ _ _ rows past => latches_of_exec_raise (exec_drw_of_past rows past)

end
end

section
/-! PROOF. The keypad and the timers (`45_keypad_timers.md`): the key index fault of the skips, the wait for a key, and
the sound after FX18. -/

namespace Sys2Proof.Machine

variable {i : Instr} {s : State} {x : Reg}

/-! ### Values that are no key -/

/-- EX9E and EXA1 on a value above 15 (R220, R221). -/
theorem exec_keySkip_of_gt (hi : i = .skp x ∨ i = .sknp x) (h : (s.getV x).toNat > 15) :
    exec i s = raise .keyIndexFault i s := by
  have noKey : keyOf (s.getV x) = none := (keyOf_eq_none_iff _).2 h
  rcases hi with rfl | rfl
  · simp only [exec, execSkp, noKey]
  · simp only [exec, execSknp, noKey]

/-- The words of both key skips have the register in their X field (R85). -/
theorem opX_encode_keySkip (hi : i = .skp x ∨ i = .sknp x) : opX (encode i) = x := by
  rcases hi with rfl | rfl
  · exact opX_group_reg_byte 0xE#4 0x9E#8 x
  · exact opX_group_reg_byte 0xE#4 0xA1#8 x

/-- The detail of a key index fault is the value of the register its word names (R241). -/
theorem faultDetail_of_keyIndexFault {op a : Word} (h : s.fault = some ⟨.keyIndexFault, some op, a⟩) :
    s.faultDetail = some (.keyValue (s.getV (opX op))) := by
  simp only [State.faultDetail, h]

/-! ### The sound -/

/-- The sound is on while the timer is above 0 (R28, R257). -/
theorem soundOn_iff (s : State) : s.soundOn = true ↔ 0 < s.st.toNat := by
  rw [State.soundOn, bne_iff_ne, Ne, BitVec.toNat_eq]
  exact Nat.pos_iff_ne_zero.symm

/-- The sound is still on after `n` ticks exactly when `ST` was above `n` (R256, R257). -/
theorem soundOn_ticks_iff (n : Nat) (s : State) : (State.ticks n s).soundOn = true ↔ n < s.st.toNat := by
  rw [soundOn_iff, ticks_eq, State.setSt_st, countDown_toNat]
  exact Nat.sub_pos_iff_lt

end Sys2Proof.Machine

section

open Sys2Proof Sys2Proof.Machine

/-- Settles O60: the three words, the one write of each instruction, and the ticks of `ST` counted down. -/
theorem timerTransfers : Obligations.TimerTransfers := by
  refine fun x s => ⟨⟨encode_selectsRow (.ldVxDt x), encode_selectsRow (.ldDtVx x), encode_selectsRow (.ldStVx x), ?_⟩,
    ⟨_, rfl, getV_setV_same s x s.dt, setV_onlyChanges s x _⟩, ⟨_, rfl, rfl, OnlyChanges.refl.setDt (by simp) _⟩,
    _, rfl, rfl, OnlyChanges.refl.setSt (by simp) _, fun n => soundOn_ticks_iff n _⟩
  have field (low : Byte) := opX_group_reg_byte 0xF#4 low x
  simp only [List.forall_mem_cons]
  exact ⟨field 0x07, field 0x15, field 0x18, by simp⟩

/-- Settles O57: the two skips on opposite tests of one key; above 15 the fault leaves the register whose value its
detail is. -/
theorem keySkips : Obligations.KeySkips := by
  refine fun x s => ⟨fun k hk => ⟨skips_of_exec_skipIf (exec_skp_of_key hk) Iff.rfl, ?_⟩, fun above i hi => ?_⟩
  · have released : (!s.drawKeyPressed k) = true ↔ ¬ s.drawKeyPressed k = true := by simp
    simpa only [ite_not] using skips_of_exec_skipIf (exec_sknp_of_key hk) released
  · obtain ⟨t, he, latched, frame⟩ := latches_of_exec_raise (exec_keySkip_of_gt hi above)
    have value : t.getV x = s.getV x := frame (.v x) (by simp)
    refine ⟨t, he, latched, ?_, frame⟩
    rw [faultDetail_of_keyIndexFault latched, opX_encode_keySkip hi, value]

/-- Settles O58, by the answer of the draw. -/
theorem waitForKey : Obligations.WaitForKey := by
  refine fun x s => ⟨s.awaitKey x s.drawKeyEvent, rfl, ?_⟩
  cases s.drawKeyEvent with
  | none => exact ⟨rfl, rfl, (OnlyChanges.refl.setWait (by simp) _).setPc (by simp) _⟩
  | some k =>
    exact ⟨getV_awaitKey_some s x k, rfl, (OnlyChanges.refl.setV (by simp) _).setWait (by simp) _⟩

end
end

section
/-! PROOF. Faults and ticks (`60_exceptions.md`): the fault each instruction raises (R242), the two states a step can
latch a fault in (R240, R246), and timers counted down (R256). -/

namespace Sys2Proof.Machine

variable {i : Instr} {s t : State} {k : FaultKind}

/-! ### Execute -/

/-- A condition for a fault that raises one holds, and the fault is its own. -/
theorem of_ite_fault {c : Prop} [Decidable c] {k k' : FaultKind} (h : (if c then some k else none) = some k') :
    c ∧ k = k' :=
  (Option.ite_none_right_eq_some.1 h).imp_right Option.some.inj

/-- An instruction raises the fault of its "Faults" line when its condition holds (R242). -/
theorem exec_eq_raise (h : faultOf s i = some k) : exec i s = raise k i s := by
  cases i with
  | ret =>
    obtain ⟨empty, rfl⟩ := of_ite_fault h
    exact exec_ret_of_nil (List.eq_nil_of_length_eq_zero empty)
  | call nnn =>
    obtain ⟨full, rfl⟩ := of_ite_fault h
    exact exec_call_of_full full
  | drw x y n =>
    obtain ⟨⟨rows, past⟩, rfl⟩ := of_ite_fault h
    exact exec_drw_of_past (fun e => Nat.ne_of_gt rows (congrArg BitVec.toNat e)) (by omega)
  | skp x =>
    obtain ⟨above, rfl⟩ := of_ite_fault h
    exact exec_keySkip_of_gt (.inl rfl) above
  | sknp x =>
    obtain ⟨above, rfl⟩ := of_ite_fault h
    exact exec_keySkip_of_gt (.inr rfl) above
  | ldB x =>
    obtain ⟨past, rfl⟩ := of_ite_fault h
    exact exec_ldB_of_past past
  | storeRegs x =>
    obtain ⟨past, rfl⟩ := of_ite_fault h
    exact exec_transfer_of_past (.inl rfl) past
  | loadRegs x =>
    obtain ⟨past, rfl⟩ := of_ite_fault h
    exact exec_transfer_of_past (.inr rfl) past
  | _ => exact nomatch h

/-- The latched record is as before unless the instruction raises, and then nothing but the record is new (R240). -/
theorem Effect.fault_cases (h : Effect i s t) :
    t.fault = s.fault ∨ ∃ kind, t = s.takeFault kind (some (encode i)) (s.pc - 2) := by
  cases h with
  | fault kind _ => exact .inr ⟨kind, rfl⟩
  | await x _ =>
    obtain ⟨v, w, q, h⟩ := awaitKey_shape s x s.drawKeyEvent
    exact .inl (by rw [h])
  | _ => exact .inl rfl

/-! ### The step -/

/-- A step at an address that can be fetched, on a word of no row (R243, R246). -/
theorem step_of_decode_none (hf : s.fault = none) (hle : s.pc.toNat ≤ 0x0FFE) (heven : s.pc.toNat % 2 = 0)
    (hd : decode s.fetchWord = none) :
    step s = .next (s.elapse.advance.takeFault .decodeError (some s.fetchWord) s.pc) := by
  have hc : fetchCause s.pc = none := (fetchCause_eq_none_iff s.pc).2 ⟨hle, heven⟩
  simp only [step, hf, State.fetchDecode, State.elapse_pc, hc, State.fetchWord_elapse, hd]

/-- A step that ends with a fault latched took it before the fetch moved `PC`, or past the word with the word in its
record (R240, R246). -/
theorem step_fault_cases (h : step s = .next t) (hf : t.fault ≠ none) :
    t = s.elapse.takeFault .fetchFault none s.pc ∨
      ∃ kind, t = s.elapse.advance.takeFault kind (some s.fetchWord) s.pc := by
  rcases step_cases s with ⟨r, -, hs⟩ | ⟨c, -, -, hs⟩ | ⟨-, -, -, hs⟩ | ⟨i, hnone, -, hd, hs⟩ <;> rw [hs] at h
  · cases h
  · exact .inl (Host.Outcome.next.inj h).symm
  · exact .inr ⟨_, (Host.Outcome.next.inj h).symm⟩
  · have word : encode i = s.fetchWord := encode_of_decode hd
    have back : s.elapse.advance.pc - 2 = s.pc := BitVec.add_sub_cancel s.pc 2
    rcases (effect_of_exec h).fault_cases with same | ⟨kind, raised⟩
    · exact absurd (same.trans hnone) hf
    · rw [word, back] at raised
      exact .inr ⟨kind, raised⟩

/-- A fault taken past the word, in the state after the interval, leaves all but `PC` as it was (R246). -/
theorem takeFault_advance_onlyChanges (s : State) (kind : FaultKind) (op : Option Word) (a : Word) :
    OnlyChanges (fun p => p = .fault ∨ p = .pc ∨ p = .dt ∨ p = .st ∨ p = .stepNo) s
      (s.elapse.advance.takeFault kind op a) :=
  ((OnlyChanges.refl.elapse (by simp) (by simp) (by simp)).setPc (by simp) _).setFault (by simp) _

end Sys2Proof.Machine

section

open Sys2Proof Sys2Proof.Machine

/-- Settles O11: the closed form of the ticks writes the two timers, each counted down. -/
theorem ticksCountDown : Obligations.TicksCountDown := by
  intro n s
  rw [ticks_eq]
  exact ⟨countDown_toNat n s.dt, countDown_toNat n s.st, (OnlyChanges.refl.setDt (by simp) _).setSt (by simp) _⟩

/-- Settles O18: a fault that is no fetch fault was taken past the word, by the decoder or by the instruction. -/
theorem faultsArePrecise : Obligations.FaultsArePrecise := by
  intro s t r hstep hr hkind
  rcases step_fault_cases hstep (by simp [hr]) with rfl | ⟨kind, rfl⟩
  · obtain rfl := Option.some.inj hr
    exact absurd rfl hkind
  · obtain rfl := Option.some.inj hr
    exact ⟨rfl, rfl, rfl, takeFault_advance_onlyChanges s kind _ _⟩

/-- Settles O24: the instruction comes to `raise`, which writes the record alone. -/
theorem executeRaisesWhatItsRuleSays : Obligations.ExecuteRaisesWhatItsRuleSays :=
  fun _ _ _ h => latches_of_exec_raise (exec_eq_raise h)

/-- Settles O17: the decode error is taken past the word. -/
theorem illegalWordFaults : Obligations.IllegalWordFaults :=
  fun s hf hle heven hd =>
    ⟨_, step_of_decode_none hf hle heven hd, rfl, rfl, takeFault_advance_onlyChanges s .decodeError _ _⟩

end
end

section
/-! PROOF. The host's operations that write least (`70_reset_and_hazards.md`): a rejected load (R283) and the setting of
a quirk flag (R285). -/

namespace Sys2Proof.Machine

/-! ### A rejected load -/

/-- An image longer than the memory behind 0x200 is answered by the capacity error (R283). -/
theorem hostLoad_eq_capacityError (font : Font) {image : List Byte} (s : State) (h : image.length > 3584) :
    hostLoad font image s = .error .capacityError := if_pos h

/-- Whatever error a load answers, its state is the one before (R283). -/
theorem perform_load_of_error {font : Font} {image : List Byte} {s : State} {e : FaultKind}
    (h : hostLoad font image s = .error e) : s.perform (.load font image) = s := by
  simp only [State.perform, h]

/-! ### The frame of a quirk setting -/

namespace OnlyChanges

variable {W : Piece → Prop} {s t : State}

theorem setQuirkShift (h : OnlyChanges W s t) (hW : W .quirkShift) (q : Bool) :
    OnlyChanges W s (t.setQuirkShift q) := fun p hp => by
  cases p with
  | quirkShift => exact absurd hW hp
  | _ => exact h _ hp

theorem setQuirkJump (h : OnlyChanges W s t) (hW : W .quirkJump) (q : Bool) :
    OnlyChanges W s (t.setQuirkJump q) := fun p hp => by
  cases p with
  | quirkJump => exact absurd hW hp
  | _ => exact h _ hp

theorem setQuirkIndex (h : OnlyChanges W s t) (hW : W .quirkIndex) (q : Bool) :
    OnlyChanges W s (t.setQuirkIndex q) := fun p hp => by
  cases p with
  | quirkIndex => exact absurd hW hp
  | _ => exact h _ hp

end OnlyChanges

end Sys2Proof.Machine

section

open Sys2Proof Sys2Proof.Machine

/-- Settles O9: the load answers the capacity error, and a load that answers an error leaves its state. -/
theorem longImageIsRejected : Obligations.LongImageIsRejected := by
  intro font image s hlen
  have rejected := hostLoad_eq_capacityError font s hlen
  exact ⟨rejected, perform_load_of_error rejected⟩

/-- Settles O10: each of the three actions is the setter of its flag, which reads back what it wrote and stays inside
that one piece. -/
theorem quirkSettingChangesOnlyTheFlag : Obligations.QuirkSettingChangesOnlyTheFlag :=
  fun s q =>
    ⟨⟨s.setQuirkShift_quirkShift q, OnlyChanges.refl.setQuirkShift (by simp) q⟩,
      ⟨s.setQuirkJump_quirkJump q, OnlyChanges.refl.setQuirkJump (by simp) q⟩,
      s.setQuirkIndex_quirkIndex q, OnlyChanges.refl.setQuirkIndex (by simp) q⟩

end
end
